-- ==== Sys2Proof/Word.lean ====
section
/-! DEFINITION. The bit vectors of the machine: what the spec itself treats as bits (R7, R9, R10). -/

namespace Sys2Proof

/-- A byte of the window, byte lane k of a word (R93). -/
abbrev Byte := BitVec 8

/-- A bus word, a command word, a 32-bit register (BUSW of R7). -/
abbrev Word := BitVec 32

/-- A 64-bit register, a bank cell or a table cell (CELLW of R7). -/
abbrev Dword := BitVec 64

/-- An EC register of EW = 576 bits (R7, R60). -/
abbrev EcWord := BitVec 576

end Sys2Proof
end

