-- ==== Sys2Proof/Syntax.lean ====
section
/-! DEFINITION. The 19 commands of the opcode map (R126), one constructor each, with the operands of their format
(R121, R123). Bank and point indices are two-bit fields and cannot be out of range (R130). -/

namespace Sys2Proof

/-- The table operand T of TWMUL and XFORM: the M bit, 0 = FWD, 1 = INV (R121, R131). -/
inductive Table where
  | fwd
  | inv
deriving DecidableEq, Repr

/-- The coding mode of RCINIT and ECMUL: the M bit, 0 = NAF-2, 1 = binary (R121, R131). -/
inductive Coding where
  | naf
  | bin
deriving DecidableEq, Repr

/-- A command. Operand order: RD, RS1, then RS2 or M (R131). -/
inductive Instr where
  | nop
  | muln
  | rootgen
  | primroot
  | pmul (rd rs1 rs2 : Fin 4)
  | twmul (rd rs1 : Fin 4) (t : Table)
  | bitrev (rd rs1 : Fin 4)
  | xform (rd rs1 : Fin 4) (t : Table)
  | scale (rd rs1 : Fin 4)
  | reduce (rd rs1 : Fin 4)
  | center (rd rs1 : Fin 4)
  | nttf (rd rs1 : Fin 4)
  | ntti (rd rs1 : Fin 4)
  | polymul (rd rs1 rs2 : Fin 4)
  | rcinit (m : Coding)
  | rcpull
  | ecdbl (rd rs1 : Fin 4)
  | ecadd (rd rs1 rs2 : Fin 4)
  | ecmul (rd rs1 : Fin 4) (m : Coding)
deriving DecidableEq, Repr

/-- The eight formats of R123. -/
inductive Format where
  | z
  | b2
  | b3
  | bt
  | rm
  | p2
  | p3
  | pm
deriving DecidableEq, Repr

/-- Why a command word is illegal (R128). -/
inductive Illegal where
  /-- Its OPC is not in the opcode map (R126). -/
  | reservedOpcode
  /-- A bit that its format fixes to zero is 1 (R123). -/
  | mustBeZero
deriving DecidableEq, Repr

end Sys2Proof
end

