-- ==== Sys2Proof/WellFormed.lean ====
section
/-! DEFINITION. Which command words are well formed: those that match a row of R127's table of patterns. An `Instr`
itself has no ill-formed term: its indices are `Fin 4` (R130). -/

namespace Sys2Proof

/-- A row of R127's table: the value a word's fixed bits have, and the mask that selects them. -/
structure PatternRow where
  pattern : Word
  mask : Word
deriving DecidableEq, Repr

/-- R127's table, row by row, in its order. -/
def patternTable : List PatternRow :=
  [
    ⟨0x00000000, 0xFFFFFFFF⟩,
    ⟨0x00000001, 0xFFFFFFFF⟩,
    ⟨0x00000002, 0xFFFFFFFF⟩,
    ⟨0x00000003, 0xFFFFFFFF⟩,
    ⟨0x00000010, 0xFFFFC0FF⟩,
    ⟨0x00000011, 0xFFFFB0FF⟩,
    ⟨0x00000012, 0xFFFFF0FF⟩,
    ⟨0x00000013, 0xFFFFB0FF⟩,
    ⟨0x00000014, 0xFFFFF0FF⟩,
    ⟨0x00000015, 0xFFFFF0FF⟩,
    ⟨0x00000016, 0xFFFFF0FF⟩,
    ⟨0x00000018, 0xFFFFF0FF⟩,
    ⟨0x00000019, 0xFFFFF0FF⟩,
    ⟨0x0000001A, 0xFFFFC0FF⟩,
    ⟨0x00000020, 0xFFFFBFFF⟩,
    ⟨0x00000021, 0xFFFFFFFF⟩,
    ⟨0x00000030, 0xFFFFF0FF⟩,
    ⟨0x00000031, 0xFFFFC0FF⟩,
    ⟨0x00000032, 0xFFFFB0FF⟩
  ]

/-- The rows of R127 that a word matches. -/
def matchingRows (w : Word) : List PatternRow := patternTable.filter fun r => w &&& r.mask = r.pattern

/-- A command word is well formed when it matches a row of R127: it is then not illegal (R128). The decoder is
written from R123 and R126 instead, so the two can be held against each other. -/
def wordWellFormed (w : Word) : Bool := !(matchingRows w).isEmpty

/-- Every index of a command is one of 0–3 (R130). True of every `Instr`, since the operands are `Fin 4`; it is here
so that a later operand type could not lose the check. -/
def Instr.wellFormed : Instr → Bool
  | .nop | .muln | .rootgen | .primroot | .rcinit _ | .rcpull => true
  | .pmul rd rs1 rs2 | .polymul rd rs1 rs2 | .ecadd rd rs1 rs2 =>
    decide (rd.val < 4) && decide (rs1.val < 4) && decide (rs2.val < 4)
  | .twmul rd rs1 _ | .xform rd rs1 _ | .ecmul rd rs1 _ => decide (rd.val < 4) && decide (rs1.val < 4)
  | .bitrev rd rs1 | .scale rd rs1 | .reduce rd rs1 | .center rd rs1 | .nttf rd rs1 | .ntti rd rs1
  | .ecdbl rd rs1 => decide (rd.val < 4) && decide (rs1.val < 4)

end Sys2Proof
end

