-- ==== Sys2Proof/Decode.lean ====
section
/-! DEFINITION. From a command word to a command and back (R121–R130). The decoder is total: every 32-bit word is one
of the 19 commands or is refused by the name of R128's reason. The encoder is R124 with the opcodes of R126. -/

namespace Sys2Proof

/-- The mask of fixed bits of a format (R123). -/
def Format.mask : Format → Word
  | .z => 0xFFFFFFFF
  | .b2 => 0xFFFFF0FF
  | .b3 => 0xFFFFC0FF
  | .bt => 0xFFFFB0FF
  | .rm => 0xFFFFBFFF
  | .p2 => 0xFFFFF0FF
  | .p3 => 0xFFFFC0FF
  | .pm => 0xFFFFB0FF

/-- The opcode map of R126: OPC and format of each mnemonic; none for the 237 reserved values (R128). -/
def formatOfOpcode (opc : Nat) : Option Format :=
  match opc with
  | 0x00 => some .z
  | 0x01 => some .z
  | 0x02 => some .z
  | 0x03 => some .z
  | 0x10 => some .b3
  | 0x11 => some .bt
  | 0x12 => some .b2
  | 0x13 => some .bt
  | 0x14 => some .b2
  | 0x15 => some .b2
  | 0x16 => some .b2
  | 0x18 => some .b2
  | 0x19 => some .b2
  | 0x1A => some .b3
  | 0x20 => some .rm
  | 0x21 => some .z
  | 0x30 => some .p2
  | 0x31 => some .p3
  | 0x32 => some .pm
  | _ => none

/-- The OPC field, bits [7:0] (R121), as an unsigned number. -/
def opcodeOf (w : Word) : Nat := (w.extractLsb' 0 8).toNat

/-- What makes a command word illegal, if anything does (R128): a reserved OPC, or a must-be-zero bit that is 1. A
word is a row's when `w AND mask = OPC` (R123). -/
def wordFault? (w : Word) : Option Illegal :=
  match formatOfOpcode (opcodeOf w) with
  | none => some .reservedOpcode
  | some f => if w &&& f.mask = BitVec.ofNat 32 (opcodeOf w) then none else some .mustBeZero

/-- RD, bits [9:8] (R121, R122). -/
def fieldRd (w : Word) : Fin 4 := (w.extractLsb' 8 2).toFin

/-- RS1, bits [11:10] (R121, R122). -/
def fieldRs1 (w : Word) : Fin 4 := (w.extractLsb' 10 2).toFin

/-- RS2, bits [13:12] (R121, R122). -/
def fieldRs2 (w : Word) : Fin 4 := (w.extractLsb' 12 2).toFin

/-- M as a table select, bit [14]: 0 = FWD, 1 = INV (R121). -/
def fieldTable (w : Word) : Table := if w.getLsbD 14 then .inv else .fwd

/-- M as a coding mode, bit [14]: 0 = NAF, 1 = BIN (R121). -/
def fieldCoding (w : Word) : Coding := if w.getLsbD 14 then .bin else .naf

/-- The command that the opcode map names for OPC, with its operands (R126); none for a reserved OPC. -/
def commandOf (w : Word) : Option Instr :=
  match opcodeOf w with
  | 0x00 => some .nop
  | 0x01 => some .muln
  | 0x02 => some .rootgen
  | 0x03 => some .primroot
  | 0x10 => some (.pmul (fieldRd w) (fieldRs1 w) (fieldRs2 w))
  | 0x11 => some (.twmul (fieldRd w) (fieldRs1 w) (fieldTable w))
  | 0x12 => some (.bitrev (fieldRd w) (fieldRs1 w))
  | 0x13 => some (.xform (fieldRd w) (fieldRs1 w) (fieldTable w))
  | 0x14 => some (.scale (fieldRd w) (fieldRs1 w))
  | 0x15 => some (.reduce (fieldRd w) (fieldRs1 w))
  | 0x16 => some (.center (fieldRd w) (fieldRs1 w))
  | 0x18 => some (.nttf (fieldRd w) (fieldRs1 w))
  | 0x19 => some (.ntti (fieldRd w) (fieldRs1 w))
  | 0x1A => some (.polymul (fieldRd w) (fieldRs1 w) (fieldRs2 w))
  | 0x20 => some (.rcinit (fieldCoding w))
  | 0x21 => some .rcpull
  | 0x30 => some (.ecdbl (fieldRd w) (fieldRs1 w))
  | 0x31 => some (.ecadd (fieldRd w) (fieldRs1 w) (fieldRs2 w))
  | 0x32 => some (.ecmul (fieldRd w) (fieldRs1 w) (fieldCoding w))
  | _ => none

/-- Decode (R152): legality first (R128), then the row of OPC. -/
def decode (w : Word) : Except Illegal Instr :=
  match wordFault? w with
  | some r => .error r
  | none =>
    match commandOf w with
    | some i => .ok i
    | none => .error .reservedOpcode

/-- `w = OPC | (RD << 8) | (RS1 << 10) | (RS2 << 12) | (M << 14)` (R124). -/
def buildWord (opc rd rs1 rs2 m : Nat) : Word :=
  BitVec.ofNat 32 opc ||| BitVec.ofNat 32 rd <<< 8 ||| BitVec.ofNat 32 rs1 <<< 10
    ||| BitVec.ofNat 32 rs2 <<< 12 ||| BitVec.ofNat 32 m <<< 14

/-- The M bit of a table operand (R131). -/
def tableBit : Table → Nat
  | .fwd => 0
  | .inv => 1

/-- The M bit of a coding mode (R131). -/
def codingBit : Coding → Nat
  | .naf => 0
  | .bin => 1

/-- The OPC of a command (R126). -/
def opcodeFor : Instr → Nat
  | .nop => 0x00
  | .muln => 0x01
  | .rootgen => 0x02
  | .primroot => 0x03
  | .pmul _ _ _ => 0x10
  | .twmul _ _ _ => 0x11
  | .bitrev _ _ => 0x12
  | .xform _ _ _ => 0x13
  | .scale _ _ => 0x14
  | .reduce _ _ => 0x15
  | .center _ _ => 0x16
  | .nttf _ _ => 0x18
  | .ntti _ _ => 0x19
  | .polymul _ _ _ => 0x1A
  | .rcinit _ => 0x20
  | .rcpull => 0x21
  | .ecdbl _ _ => 0x30
  | .ecadd _ _ _ => 0x31
  | .ecmul _ _ _ => 0x32

/-- The command word of a command (R124); every field its format does not use is zero (R123). -/
def encode (i : Instr) : Word :=
  match i with
  | .nop | .muln | .rootgen | .primroot | .rcpull => buildWord (opcodeFor i) 0 0 0 0
  | .pmul rd rs1 rs2 | .polymul rd rs1 rs2 | .ecadd rd rs1 rs2 => buildWord (opcodeFor i) rd rs1 rs2 0
  | .twmul rd rs1 t | .xform rd rs1 t => buildWord (opcodeFor i) rd rs1 0 (tableBit t)
  | .bitrev rd rs1 | .scale rd rs1 | .reduce rd rs1 | .center rd rs1 | .nttf rd rs1 | .ntti rd rs1
  | .ecdbl rd rs1 => buildWord (opcodeFor i) rd rs1 0 0
  | .rcinit m => buildWord (opcodeFor i) 0 0 0 (codingBit m)
  | .ecmul rd rs1 m => buildWord (opcodeFor i) rd rs1 0 (codingBit m)

/-- The command word that the opcode table numbers `w` in `nbits` bits; the bits above `nbits` are zero. A command is
one 32-bit word (R120), so there is nothing to lay out. -/
def tableWord (nbits w : Nat) : Word := BitVec.ofNat 32 (w % 2 ^ nbits)

/-- The command the decoder reads from a word of the opcode table. -/
def decodeTableWord (nbits w : Nat) : Option Instr :=
  match decode (tableWord nbits w) with
  | .ok i => some i
  | .error _ => none

end Sys2Proof
end

