-- ==== Sys2Proof/Machine/Arith.lean ====
section
/-! DEFINITION. The integer functions the command rules share (R10, R11, R14, R156–R163, R170). Values are mathematical
integers (R10); every reduction is exact. -/

namespace Sys2Proof.Machine

/-- `mod_m(z)` of R11: the residue in [0, m), by floor division. -/
def zmod (m : Nat) (z : Int) : Int := z % (m : Int)

/-- The least L with `v < 2^L` (R241). -/
def bitLen (v : Nat) : Nat := if v = 0 then 0 else Nat.log2 v + 1

/-- `rev_L(i)` of R14: the L-bit form of `i` read in reverse order. -/
def revBits : Nat → Nat → Nat
  | 0, _ => 0
  | l + 1, i => (i % 2) * 2 ^ l + revBits l (i / 2)

/-- The loop of the extended Euclidean algorithm: remainders `r0`, `r1` with their coefficients of `a` and of `m`. The
first argument bounds the passes. -/
def xgcdLoop : Nat → Nat → Nat → Int → Int → Int → Int → Nat × Int × Int
  | 0, r0, _, s0, _, t0, _ => (r0, s0, t0)
  | fuel + 1, r0, r1, s0, s1, t0, t1 =>
    if r1 = 0 then (r0, s0, t0)
    else xgcdLoop fuel r1 (r0 % r1) s1 (s0 - (r0 / r1 : Nat) * s1) t1 (t0 - (r0 / r1 : Nat) * t1)

/-- `xgcd(a, m)` of R159: `(g, s, t)` with `g = gcd(a, m)` and `s·a + t·m = g`. Which pair it finds is not observable
(log entry 19). -/
def xgcd (a m : Nat) : Nat × Int × Int := xgcdLoop (m + 1) a m 1 0 0 1

/-- `inv_m(v)` of R156: the inverse in [1, m) of `mod_m(v)`, or none where it has none. -/
def invMod? (m : Nat) (v : Int) : Option Int :=
  match xgcd (zmod m v).toNat m with
  | (g, s, _) => if g = 1 then some (zmod m s) else none

/-- `pow_m(b, e)` of R161. -/
def powMod (m b e : Nat) : Nat := b ^ e % m

/-- How many of 1, …, k are coprime to `m`, added to `acc`. -/
def countCoprime (m : Nat) : Nat → Nat → Nat
  | 0, acc => acc
  | k + 1, acc => countCoprime m k (if Nat.gcd (k + 1) m = 1 then acc + 1 else acc)

/-- φ(m) of R162. -/
def totient (m : Nat) : Nat := countCoprime m m 0

/-- Looks for the least exponent from `k` on at which a power of `g` is 1, where `acc` is `pow_m(g, k)`; 0 when the
passes of the first number run out. -/
def orderFrom (m g : Nat) : Nat → Nat → Nat → Nat
  | 0, _, _ => 0
  | fuel + 1, acc, k => if acc = 1 then k else orderFrom m g fuel (acc * g % m) (k + 1)

/-- `ord_m(g)` of R163, for `gcd(g, m) = 1`. -/
def orderMod (m g : Nat) : Nat := orderFrom m g m (g % m) 1

/-- The least of the `count` numbers from `start` on for which `p` holds: the ascending searches of R168 and R170. -/
def firstFrom (p : Nat → Bool) : (count : Nat) → (start : Nat) → Option Nat
  | 0, _ => none
  | count + 1, start => if p start then some start else firstFrom p count (start + 1)

/-- `root_search(Q, n)` of R170: the least m of 2, …, Q − 2 with `pow_Q(m, n) = Q − 1`. -/
def rootSearch (q n : Nat) : Option Nat := firstFrom (fun m => powMod q m n == q - 1) (q - 3) 2

/-- Whether `g` generates (ℤ/Q)^× given `ph = φ(Q)`: the loop's condition in R168. -/
def isGenerator (q ph g : Nat) : Bool := Nat.gcd g q == 1 && orderMod q g == ph

/-- The search of R168: the least generator among 2, …, Q − 1. -/
def generatorSearch (q : Nat) : Option Nat := firstFrom (isGenerator q (totient q)) (q - 2) 2

end Sys2Proof.Machine
end

