-- ==== Sys2Proof/Config.lean ====
section
/-! DEFINITION. The parameters the spec fixes (R7) and the free values it leaves open. A free value is a constant
with no body: nothing in Lean can evaluate it, so a claim that holds, holds whatever it is. -/

namespace Sys2Proof.Config

/-- LOGNMAX of R7: log2 of the longest transform. -/
def logNMax : Nat := 10

/-- NB of R7: the number of polynomial banks. -/
def numBanks : Nat := 4

/-- NP of R7: the number of point registers. -/
def numPoints : Nat := 4

/-- NL of R7: limbs of an EC register. -/
def numLimbs : Nat := 9

/-- EW = NL · LIMBW of R7: bits of an EC register. -/
def ecWidth : Nat := 576

/-- DIGMAX of R7: the longest digit sequence the recoder can hold. -/
def digMax : Nat := 577

/-- SPAN of R7 and R90: bytes of the block's window. -/
def span : Nat := 0x1C000

/-- The ID word of R2 and R32. -/
def idWord : Nat := 0x4C534301

/-- DESIGN CHOICE (log entry 3, safe as to the value): what a byte of a bank or table that nothing has written since
the reset number `epoch` reads as; the spec says "unspecified" (R67, R342). Arguments: `epoch`, byte offset. -/
opaque ramByte : Nat → Nat → BitVec 8

/-- DESIGN CHOICE (log entry 5, safe): what an EC register holds right after the reset event number `epoch`
(R343). Arguments: `epoch`, the number of the register's slot (R96; 12 and 13 are DX and DY of R66). -/
opaque ecAfterReset : Nat → Nat → BitVec 576

/-- DESIGN CHOICE (log entry 6, safe): what the `k`-th unspecified read returns (R102). -/
opaque busyRead : Nat → BitVec 32

end Sys2Proof.Config
end

