-- ==== Sys2Proof/Machine/State.lean ====
section
/-! DEFINITION. All the state the spec gives the block (10_state.md), as plain data, and its value after reset
(R341). Registers that are functions of others (ID, CAPS, BRT_K, BRT_M, INVQ_DBL, INVQ_FLT, STATUS.ERR, IRQ) have no
field; they are computed where they are read. -/

namespace Sys2Proof.Machine

/-- The error codes of R300. Codes 6–15 are never produced, so they are no values of this type. -/
inductive ErrCode where
  | ok
  | illegal
  | param
  | noroot
  | noinv
  | rcempty
deriving DecidableEq, Repr

/-- The stored fields of STATUS (R35). BUSY is the presence of `State.pend` (R68, log entry 9); ERR is computed
(R301). -/
structure Status where
  /-- Bit 1: the last command has completed. -/
  done : Bool
  /-- Bit 3: the parameter set and the twiddle tables are valid (R56). -/
  pvalid : Bool
  /-- Bits [7:4]: the code of the last completed command. -/
  errcode : ErrCode
  /-- Bit 8: a host write arrived while BUSY = 1 (R101). -/
  ovr : Bool
  /-- Bit 9: an invalid access (R97). -/
  buserr : Bool
deriving DecidableEq, Repr

/-- CTRL (R33). -/
structure Ctrl where
  /-- Bits [1:0]: the reduction mode; 3 is reserved, stored and read back. -/
  rmode : BitVec 2
  /-- Bits [3:2]: the precision tier; 3 is reserved, stored and read back. -/
  tier : BitVec 2
  /-- Bit 4: the completion interrupt is enabled (R320). -/
  ie : Bool
deriving DecidableEq, Repr

/-- The digit symbols of R244. -/
inductive Symbol where
  | low
  | high
  | scaDummy
  | minusOne
deriving DecidableEq, Repr

/-- The secret-bit cursor (R65): the coding mode of the last RCINIT and the symbols still to pull, most significant
first. -/
structure Cursor where
  mode : Coding
  seq : List Symbol
deriving DecidableEq, Repr

/-- A point register, or the dummy point: two EW-bit values (R63, R66). -/
structure Point where
  x : EcWord
  y : EcWord
deriving DecidableEq, Repr

/-- What the outside world may do next, or let the engine do (R16, R18): the model's own, log entry 1. -/
inductive Event where
  /-- A host bus read of `size` bytes at a byte offset of the window. -/
  | busRead (offset size : Nat)
  /-- A host bus write of `size` bytes at a byte offset of the window. -/
  | busWrite (offset size : Nat) (data : Word)
  /-- The engine's turn: the completion step, if a command is pending (R151). -/
  | engine
  /-- The platform's reset input (R340). -/
  | reset
deriving DecidableEq, Repr

/-- The banks and tables, bytewise: pairs of a byte offset of the window (0x10000–0x1BFFF, R94) and the byte stored
there, offsets strictly rising. A byte that is not listed has not been written since reset (R67, log entry 3). -/
abbrev Memory := List Host.Cell

/-- The state of the block. -/
structure State where
  /-- CTRL (R33). -/
  ctrl : Ctrl
  /-- STATUS (R35). -/
  status : Status
  /-- CMD: the last accepted command word (R37). -/
  cmd : Word
  /-- PEND: the accepted command word while BUSY = 1 (R68); none means BUSY = 0. -/
  pend : Option Word
  /-- NTT_LOGN.LOGN (R38). -/
  nttLogn : BitVec 4
  /-- NTT_Q (R39). -/
  nttQ : Dword
  /-- NTT_ROOT (R40). -/
  nttRoot : Dword
  /-- NTT_ROOTINV (R41). -/
  nttRootinv : Dword
  /-- NTT_NINV (R42). -/
  nttNinv : Dword
  /-- MULN_X (R47). -/
  mulnX : Dword
  /-- MULN_Y (R47). -/
  mulnY : Dword
  /-- MULN_R (R48). -/
  mulnR : Dword
  /-- NTT_GEN (R49). -/
  nttGen : Dword
  /-- EC_KBITS.KBITS (R50). -/
  ecKbits : BitVec 10
  /-- RC_COUNT (R51). -/
  rcCount : BitVec 10
  /-- RC_REMAIN (R52). -/
  rcRemain : BitVec 10
  /-- RC_SYM (R53). -/
  rcSym : Symbol
  /-- The cursor CUR (R65). -/
  cur : Cursor
  /-- EC_P (R60). -/
  ecP : EcWord
  /-- EC_A (R60). -/
  ecA : EcWord
  /-- EC_K (R61). -/
  ecK : EcWord
  /-- PT[0..3] (R63). -/
  pt : Vector Point 4
  /-- DUMMY (R66). -/
  dummy : Point
  /-- Bank[0..3], Tab[FWD] and Tab[INV] (R57, R58). -/
  mem : Memory
  /-- The read data of the bus port: what the last host read returned (R18, log entry 7). -/
  rdata : Word
  /-- The model's own: the events still to come, the next one first (log entry 1). -/
  inputs : List Event
  /-- The model's own: how many reset events there have been; it picks the free values of unwritten RAM (log entry 7). -/
  epoch : Nat
  /-- The model's own: how many unspecified reads there have been; it picks the next free value (log entry 7). -/
  draws : Nat
deriving DecidableEq, Repr

/-- The machine right after reset (R341). The EC registers, the points and DUMMY are unspecified in the spec; zero is
DESIGN CHOICE (log entry 4, unsafe). -/
def State.reset : State where
  ctrl := { rmode := 0, tier := 0, ie := false }
  status := { done := false, pvalid := false, errcode := .ok, ovr := false, buserr := false }
  cmd := 0
  pend := none
  nttLogn := 0
  nttQ := 0
  nttRoot := 0
  nttRootinv := 0
  nttNinv := 0
  mulnX := 0
  mulnY := 0
  mulnR := 0
  nttGen := 0
  ecKbits := 0
  rcCount := 0
  rcRemain := 0
  rcSym := .low
  cur := { mode := .naf, seq := [] }
  ecP := 0
  ecA := 0
  ecK := 0
  pt := #v[⟨0, 0⟩, ⟨0, 0⟩, ⟨0, 0⟩, ⟨0, 0⟩]
  dummy := ⟨0, 0⟩
  mem := []
  rdata := 0
  inputs := []
  epoch := 0
  draws := 0

/-- Why the model stops. No command ever stops it: a command that fails completes with an error code (R300). -/
inductive Fault where
  /-- Raised by a host transaction whose offset lies outside the block's window: it is not the block's, and what it
  reaches is the platform's business (R94). Safe: the model stops where the platform would go on (log entry 10). -/
  | outsideWindow (offset : Nat)
deriving DecidableEq, Repr

/-- Why an instruction has no meaning. -/
inductive Refusal where
  /-- Raised by `exec` for an instruction whose arm has no meaning yet. Safe: nothing is claimed of it. No arm raises
  it in this model. -/
  | notModelled (mnemonic : String)
deriving DecidableEq, Repr

end Sys2Proof.Machine
end

