-- ==== Sys2Proof/Machine/Flags.lean ====
section
/-! DEFINITION. What software sees of STATUS and CTRL, the interrupt output, and the registers that are functions of
others (R32–R35, R43–R46, R300, R320). -/

namespace Sys2Proof.Machine

/-- The 4-bit code of R300. -/
def errBits : ErrCode → Nat
  | .ok => 0
  | .illegal => 1
  | .param => 2
  | .noroot => 3
  | .noinv => 4
  | .rcempty => 5

/-- STATUS.BUSY: a command is pending (R35, R68). -/
def State.busy (s : State) : Bool := s.pend.isSome

/-- STATUS.ERR = (ERRCODE ≠ 0) (R35, R301). -/
def State.err (s : State) : Bool := errBits s.status.errcode != 0

/-- The word a read of STATUS returns (R35). -/
def State.statusWord (s : State) : Word :=
  BitVec.ofNat 32 (s.busy.toNat + s.status.done.toNat * 2 + s.err.toNat * 4 + s.status.pvalid.toNat * 8
    + errBits s.status.errcode * 16 + s.status.ovr.toNat * 256 + s.status.buserr.toNat * 512)

/-- A write to STATUS: a 1 in bit 1, 8 or 9 clears DONE, OVR or BUSERR; nothing else is written (R35). -/
def Status.writeOneToClear (st : Status) (v : Word) : Status :=
  { st with
    done := st.done && !v.getLsbD 1
    ovr := st.ovr && !v.getLsbD 8
    buserr := st.buserr && !v.getLsbD 9 }

/-- The word a read of CTRL returns (R33). -/
def Ctrl.toWord (c : Ctrl) : Word := BitVec.ofNat 32 (c.rmode.toNat + c.tier.toNat * 4 + c.ie.toNat * 16)

/-- The fields a write to CTRL stores; bits [31:5] are ignored (R33). -/
def Ctrl.ofWord (v : Word) : Ctrl :=
  { rmode := v.extractLsb' 0 2, tier := v.extractLsb' 2 2, ie := v.getLsbD 4 }

/-- IRQ = STATUS.DONE ∧ CTRL.IE, at every moment (R320). -/
def State.irq (s : State) : Bool := s.status.done && s.ctrl.ie

/-- CAPS (R34): the parameters of R7. -/
def capsWord : Word :=
  BitVec.ofNat 32 (Config.logNMax + Config.numBanks * 2 ^ 4 + Config.numPoints * 2 ^ 8 + Config.numLimbs * 2 ^ 12)

/-- BRT_K (R43): 30 for tiers 0 and 1, 62 for tier 2, 0 for the reserved tier. -/
def barrettShift (tier : BitVec 2) : Nat :=
  match tier.toNat with
  | 0 | 1 => 30
  | 2 => 62
  | _ => 0

/-- BRT_M (R44): ⌊2^k / Q⌋ cut to 64 bits, or 0 when Q = 0 or the tier is reserved. -/
def barrettConstant (tier : BitVec 2) (q : Nat) : Dword :=
  if q = 0 ∨ tier = 3 then 0 else BitVec.ofNat 64 (2 ^ barrettShift tier / q)

/-- `num / q` rounded to the nearest integer, ties to even. -/
def divNearestEven (num q : Nat) : Nat :=
  if q < 2 * (num % q) ∨ (2 * (num % q) = q ∧ num / q % 2 = 1) then num / q + 1 else num / q

/-- The IEEE 754 encoding of 1/Q rounded to nearest, ties to even, with `p` significand bits and the given exponent
bias; 0 when Q = 0 (R45, R46). With k = ⌈log2 Q⌉ the significand is 2^(p−1+k) / Q, in [2^(p−1), 2^p]; a carry out of
it lands in the exponent. The encoding is PRESUMED (log entry 15). -/
def reciprocalEncoding (p bias q : Nat) : Nat :=
  if q = 0 then 0
  else (bias - bitLen (q - 1)) * 2 ^ (p - 1) + (divNearestEven (2 ^ (p - 1 + bitLen (q - 1))) q - 2 ^ (p - 1))

/-- INVQ_DBL (R45): binary64. -/
def invqDouble (q : Nat) : Dword := BitVec.ofNat 64 (reciprocalEncoding 53 1023 q)

/-- INVQ_FLT (R46): binary32. -/
def invqFloat (q : Nat) : Word := BitVec.ofNat 32 (reciprocalEncoding 24 127 q)

end Sys2Proof.Machine
end

