-- ==== Sys2Proof/Machine/Ops.lean ====
section
/-! DEFINITION. The shared operations: bytes of the window's RAM (R57, R58, R92, R93), the acceptance of a command
(R150) and its completion with an error code (R151, R300), which is all the block has in the place of an exception
entry (R308). There is no return from one (R309). -/

namespace Sys2Proof.Machine

/-- The `n` bytes of a number, least significant first (R92, R93). -/
def leBytes : Nat → Nat → List Byte
  | 0, _ => []
  | n + 1, v => BitVec.ofNat 8 v :: leBytes n (v / 256)

/-- The number whose bytes, least significant first, are given (R92, R93). -/
def ofLeBytes : List Byte → Nat
  | [] => 0
  | b :: bs => b.toNat + 256 * ofLeBytes bs

/-- The canonical form: offsets strictly rising. -/
def Memory.wf (m : Memory) : Bool := decide (m.Pairwise fun c d => c.1 < d.1)

/-- The byte stored at an offset, none where nothing has written it since reset. -/
def Memory.byte? (m : Memory) (a : Nat) : Option Byte :=
  match m with
  | [] => none
  | (k, v) :: rest => if k = a then some v else Memory.byte? rest a

/-- The entries for consecutive bytes from an offset on. -/
def Memory.entries (a : Nat) : List Byte → Memory
  | [] => []
  | b :: bs => (a, b) :: Memory.entries (a + 1) bs

/-- Stores consecutive bytes from an offset on: the entries below the block, the block, the entries above it. -/
def Memory.store (m : Memory) (a : Nat) (bs : List Byte) : Memory :=
  m.filter (fun c => decide (c.1 < a)) ++ Memory.entries a bs ++ m.filter (fun c => decide (a + bs.length ≤ c.1))

/-- What reading one byte gives: the stored byte, or `fill` of its offset where nothing has written it. -/
def Memory.byteOr (fill : Nat → Byte) (m : Memory) (a : Nat) : Byte := (Memory.byte? m a).getD (fill a)

/-- Reads `len` consecutive bytes in one walk; an entry that has been passed is dropped. -/
def Memory.loadWalk (fill : Nat → Byte) : (len : Nat) → Memory → (a : Nat) → List Byte
  | 0, _, _ => []
  | len + 1, [], a => fill a :: Memory.loadWalk fill len [] (a + 1)
  | len + 1, (k, v) :: rest, a =>
    if k = a then v :: Memory.loadWalk fill len rest (a + 1)
    else Memory.byteOr fill ((k, v) :: rest) a :: Memory.loadWalk fill len ((k, v) :: rest) (a + 1)

/-- Reads `len` consecutive bytes: byte by byte it is `Memory.byteOr` (Laws/Memory.lean). -/
def Memory.load (fill : Nat → Byte) (m : Memory) (a len : Nat) : List Byte :=
  Memory.loadWalk fill len (m.filter fun c => decide (a ≤ c.1) && decide (c.1 < a + len)) a

/-- The byte of a bank or table at an offset of the window: the stored byte, or the free value of this reset where
nothing has written it (R67, R342, log entry 3). -/
def State.byteAt (s : State) (a : Nat) : Byte := Memory.byteOr (Config.ramByte s.epoch) s.mem a

/-- `len` consecutive bytes of the banks and tables. -/
def State.loadBytes (s : State) (a len : Nat) : List Byte := Memory.load (Config.ramByte s.epoch) s.mem a len

/-- Stores consecutive bytes of the banks and tables. -/
def State.storeBytes (s : State) (a : Nat) (bs : List Byte) : State := { s with mem := Memory.store s.mem a bs }

/-- The 64-bit cells that consecutive bytes make up, low word at the lower offset (R92, R95). -/
def cellsOfBytes : (n : Nat) → List Byte → List Dword
  | 0, _ => []
  | n + 1, bs => BitVec.ofNat 64 (ofLeBytes (bs.take 8)) :: cellsOfBytes n (bs.drop 8)

/-- The first `n` cells of the bank or table at an offset (R95). -/
def State.loadCells (s : State) (base n : Nat) : List Dword := cellsOfBytes n (s.loadBytes base (8 * n))

/-- Cell `i` of the bank or table at an offset (R95); the cells of `State.loadCells` one by one (Laws/Memory.lean). -/
def State.cellAt (s : State) (base i : Nat) : Dword :=
  BitVec.ofNat 64 (ofLeBytes ((List.range 8).map fun k => s.byteAt (base + 8 * i + k)))

/-- Writes cells 0, 1, … of the bank or table at an offset; the cells after them keep their values (R57, R59). -/
def State.storeCells (s : State) (base : Nat) (cs : List Dword) : State :=
  s.storeBytes base (cs.flatMap fun c => leBytes 8 c.toNat)

/-- STATUS.PVALID ← v. -/
def State.setPvalid (s : State) (v : Bool) : State := { s with status := { s.status with pvalid := v } }

/-- STATUS.BUSERR ← 1: an invalid access (R97). -/
def State.setBuserr (s : State) : State := { s with status := { s.status with buserr := true } }

/-- STATUS.OVR ← 1: a write while BUSY = 1 (R101). -/
def State.setOvr (s : State) : State := { s with status := { s.status with ovr := true } }

/-- Acceptance (R150): `CMD <- v`, `PEND <- v`, `DONE <- 0`, `BUSY <- 1`. ERRCODE keeps its value (R36). -/
def State.accept (s : State) (v : Word) : State :=
  { s with cmd := v, pend := some v, status := { s.status with done := false } }

/-- The end of the completion step (R151): `ERRCODE <- code`, `DONE <- 1`, `BUSY <- 0`. -/
def State.complete (s : State) (code : ErrCode) : State :=
  { s with pend := none, status := { s.status with errcode := code, done := true } }

/-- A command that ends with a code after its writes: `raise E` and `return` (R12, R151). -/
def State.finish (s : State) (code : ErrCode) : Host.Outcome State Fault Refusal := .next (s.complete code)

/-- Reset (R340, R341, R343): every register takes its reset value and every RAM-like word an unspecified one, here the
free values of this reset (log entry 5). The pending command is abandoned. What the outside still has in store, and
what the port last returned, is not the block's to reset. -/
def State.onReset (s : State) : State :=
  { State.reset with
    ecP := Config.ecAfterReset s.epoch 0
    ecA := Config.ecAfterReset s.epoch 1
    ecK := Config.ecAfterReset s.epoch 2
    pt := #v[⟨Config.ecAfterReset s.epoch 4, Config.ecAfterReset s.epoch 5⟩,
      ⟨Config.ecAfterReset s.epoch 6, Config.ecAfterReset s.epoch 7⟩,
      ⟨Config.ecAfterReset s.epoch 8, Config.ecAfterReset s.epoch 9⟩,
      ⟨Config.ecAfterReset s.epoch 10, Config.ecAfterReset s.epoch 11⟩]
    dummy := ⟨Config.ecAfterReset s.epoch 12, Config.ecAfterReset s.epoch 13⟩
    rdata := s.rdata
    inputs := s.inputs
    epoch := s.epoch + 1
    draws := s.draws }

end Sys2Proof.Machine
end

