-- ==== Sys2Proof/Machine/Operands.lean ====
section
/-! DEFINITION. The operand forms of the commands (R122): NTT parameters, banks, tables and point registers, and the
parameter checks of R154 and R155. -/

namespace Sys2Proof.Machine

/-- Q = uint(NTT_Q) (R13). -/
def State.modulus (s : State) : Nat := s.nttQ.toNat

/-- LOGN = uint(NTT_LOGN[3:0]) (R38). -/
def State.logn (s : State) : Nat := s.nttLogn.toNat

/-- n = 2^LOGN (R13). -/
def State.len (s : State) : Nat := 2 ^ s.logn

/-- W by tier (R33). The reserved tier selects no width; its 0 is never used, since R154 item 2 comes first (log
entry 14). -/
def tierWidth (tier : BitVec 2) : Nat :=
  match tier.toNat with
  | 0 => 16
  | 1 => 32
  | 2 => 64
  | _ => 0

/-- The coefficient width W (R13). -/
def State.width (s : State) : Nat := tierWidth s.ctrl.tier

/-- `sint_W` of the low W bits of a 64-bit value (R10, R47, R57). -/
def sint (w : Nat) (v : Dword) : Int := (v.setWidth w).toInt

/-- `sext_64(z)` (R10). -/
def sext64 (z : Int) : Dword := BitVec.ofInt 64 z

/-- `zext_EW(z)` (R10, R260). -/
def zextEc (z : Int) : EcWord := BitVec.ofInt 576 z

/-- Offset of cell 0 of Bank[b] (R95). -/
def bankBase (b : Fin 4) : Nat := 0x10000 + 0x2000 * b.val

/-- Offset of cell 0 of a twiddle table (R95). -/
def tableBase : Table → Nat
  | .fwd => 0x18000
  | .inv => 0x1A000

/-- `coef(b, i)` for i < n: the source coefficients of a bank command (R57). -/
def State.coefs (s : State) (b : Fin 4) : List Int := (s.loadCells (bankBase b) s.len).map (sint s.width)

/-- `coef(b, i)` (R12, R57): `State.coefs` one by one (Laws/Memory.lean). -/
def State.coef (s : State) (b : Fin 4) (i : Nat) : Int := sint s.width (s.cellAt (bankBase b) i)

/-- `tab(t, i)` for i < n (R58). -/
def State.twiddles (s : State) (t : Table) : List Int := (s.loadCells (tableBase t) s.len).map (sint s.width)

/-- `tab(t, i)` (R12, R58): `State.twiddles` one by one (Laws/Memory.lean). -/
def State.twiddle (s : State) (t : Table) (i : Nat) : Int := sint s.width (s.cellAt (tableBase t) i)

/-- `Bank[d][i] <- sext_64(c[i])` for every result of a bank command (R57). -/
def State.writeBank (s : State) (d : Fin 4) (c : List Int) : State := s.storeCells (bankBase d) (c.map sext64)

/-- The three levels of `ntt_check` (R154). -/
inductive CheckLevel where
  /-- Level 0: MULN and PRIMROOT. -/
  | scalar
  /-- Level 1: ROOTGEN, PMUL, BITREV, REDUCE and CENTER. -/
  | length
  /-- Level 2: TWMUL, XFORM, SCALE, NTTF, NTTI and POLYMUL. -/
  | tables
deriving DecidableEq, Repr

/-- Items 1–3 of R154 do not hold: RMODE and TIER are not reserved, and `2 <= Q < 2^(W−1)`. -/
def State.modulusOk (s : State) : Bool :=
  s.ctrl.rmode != 3 && s.ctrl.tier != 3 && decide (2 ≤ s.modulus) && decide (s.modulus < 2 ^ (s.width - 1))

/-- Item 4 of R154 does not hold: `1 <= LOGN <= LOGNMAX`. -/
def State.lengthOk (s : State) : Bool := decide (1 ≤ s.logn) && decide (s.logn ≤ Config.logNMax)

/-- `ntt_check(level)` passes (R154). Every failing item raises the one code PARAM, so their order cannot be seen. -/
def State.nttCheck (s : State) : CheckLevel → Bool
  | .scalar => s.modulusOk
  | .length => s.modulusOk && s.lengthOk
  | .tables => s.modulusOk && s.lengthOk && s.status.pvalid

/-- P = uint(EC_P) (R13). -/
def State.ecModulus (s : State) : Nat := s.ecP.toNat

/-- a = mod_P(uint(EC_A)) (R60). -/
def State.curveA (s : State) : Int := zmod s.ecModulus s.ecA.toNat

/-- `ec_check(false)` passes: P ≥ 3 (R155). -/
def State.ecModulusOk (s : State) : Bool := decide (3 ≤ s.ecModulus)

/-- KBITS ≤ EW (R50, R155, R240). -/
def State.kbitsOk (s : State) : Bool := decide (s.ecKbits.toNat ≤ Config.ecWidth)

/-- An affine pair of reduced coordinates (R260). -/
structure Affine where
  x : Int
  y : Int
deriving DecidableEq, Repr

/-- A point register as an EC command reads it, both coordinates reduced mod P (R260). -/
def State.point (s : State) (j : Fin 4) : Affine :=
  ⟨zmod s.ecModulus (s.pt[j]).x.toNat, zmod s.ecModulus (s.pt[j]).y.toNat⟩

/-- `PT[d].X <- zext_EW(x)`, `PT[d].Y <- zext_EW(y)` (R260). -/
def State.setPoint (s : State) (d : Fin 4) (p : Affine) : State :=
  { s with pt := s.pt.set d ⟨zextEc p.x, zextEc p.y⟩ }

/-- DUMMY ← a point (R270). -/
def State.setDummy (s : State) (p : Affine) : State := { s with dummy := ⟨zextEc p.x, zextEc p.y⟩ }

end Sys2Proof.Machine
end

