-- ==== Sys2Proof/Machine/Recoder.lean ====
section
/-! DEFINITION. The secret-bit recoder (42_recoder.md): symbols, the two recodings, RCINIT and RCPULL. -/

namespace Sys2Proof.Machine

/-- The 2-bit code of a symbol (R244). -/
def Symbol.code : Symbol → BitVec 2
  | .low => 0b00
  | .high => 0b01
  | .scaDummy => 0b10
  | .minusOne => 0b11

/-- Bit 0 of the code: the digit is nonzero (R244). -/
def Symbol.nonzero (y : Symbol) : Bool := (Symbol.code y).getLsbD 0

/-- Bit 1 of the code: the digit is negative (R244). -/
def Symbol.negative (y : Symbol) : Bool := (Symbol.code y).getLsbD 1

/-- `sym(z)` for a digit z ∈ {−1, 0, 1} (R241). -/
def symbolOf (z : Int) : Symbol := if z = 1 then .high else if z = 0 then .low else .minusOne

/-- The bits of `v` below position `l`, most significant first. -/
def bitsFrom (v : Nat) : Nat → List Int
  | 0 => []
  | l + 1 => (if v.testBit l then 1 else 0) :: bitsFrom v l

/-- `bin_digits(v)` of R241. -/
def binDigits (v : Nat) : List Int := bitsFrom v (bitLen v)

/-- The digit z of one pass of `naf_digits` (R241). -/
def nafDigit (v : Nat) : Int := if v % 2 = 1 then 2 - (v % 4 : Nat) else 0

/-- The loop of `naf_digits`, least significant digit first (R241). The first argument bounds the passes; each pass
makes a positive `v` smaller, so `v` passes are enough. -/
def nafLoop : Nat → Nat → List Int
  | 0, _ => []
  | fuel + 1, v => if v = 0 then [] else nafDigit v :: nafLoop fuel (((v : Int) - nafDigit v).toNat / 2)

/-- `naf_digits(v)` of R241. -/
def nafDigits (v : Nat) : List Int := (nafLoop v v).reverse

/-- `recode(v, m)` of R241. -/
def recode (v : Nat) (m : Coding) : List Symbol :=
  match m with
  | .bin => (binDigits v).map symbolOf
  | .naf => (nafDigits v).map symbolOf

/-- The secret: `mod_{2^KBITS}(uint(EC_K))` (R61, R240). -/
def State.secret (s : State) : Nat := s.ecK.toNat % 2 ^ s.ecKbits.toNat

/-- The body of RCINIT after its check (R240). -/
def State.loadCursor (s : State) (m : Coding) : State :=
  { s with
    cur := { mode := m, seq := recode s.secret m }
    rcCount := BitVec.ofNat 10 (recode s.secret m).length
    rcRemain := BitVec.ofNat 10 (recode s.secret m).length }

/-- The body of RCPULL on a cursor whose head is `y` and whose tail is `rest` (R242). -/
def State.pulled (s : State) (y : Symbol) (rest : List Symbol) : State :=
  { s with
    cur := { s.cur with seq := rest }
    rcSym := y
    rcRemain := BitVec.ofNat 10 rest.length }

/-- RCINIT (R240). -/
def execRcinit (m : Coding) (s : State) : Host.Outcome State Fault Refusal :=
  if s.kbitsOk then (s.loadCursor m).finish .ok else s.finish .param

/-- RCPULL (R242). -/
def execRcpull (s : State) : Host.Outcome State Fault Refusal :=
  match s.cur.seq with
  | [] => s.finish .rcempty
  | y :: rest => (s.pulled y rest).finish .ok

end Sys2Proof.Machine
end

