-- ==== Sys2Proof/Machine/Points.lean ====
section
/-! DEFINITION. The EC point commands (43_ec_point.md). A function that may meet a missing inverse answers its point
and whether NOINV is flagged (R156). -/

namespace Sys2Proof.Machine

/-- `neg(p)` (R261). -/
def ecNeg (p : Nat) (a : Affine) : Affine := ⟨a.x, zmod p (-a.y)⟩

/-- The point of slope `lam` through `(x, y)` and a point of abscissa `xb`: the last two lines of R263 and R265. -/
def ecChord (p : Nat) (lam x y xb : Int) : Affine :=
  ⟨zmod p (lam ^ 2 - x - xb), zmod p (lam * (x - zmod p (lam ^ 2 - x - xb)) - y)⟩

/-- `ec_dbl(p)` (R263). -/
def ecDbl (p : Nat) (curveA : Int) (pt : Affine) : Affine × Bool :=
  if pt.x = 0 ∧ pt.y = 0 then (⟨0, 0⟩, false)
  else
    let u := invMod? p (zmod p (2 * pt.y))
    (ecChord p (zmod p ((3 * pt.x ^ 2 + curveA) * u.getD 0)) pt.x pt.y pt.x, u.isNone)

/-- `ec_add(p, q)` (R265): no input is treated specially. -/
def ecAdd (p : Nat) (a b : Affine) : Affine × Bool :=
  let u := invMod? p (zmod p (b.x - a.x))
  (ecChord p (zmod p ((b.y - a.y) * u.getD 0)) a.x a.y b.x, u.isNone)

/-- `NOINV flagged ? NOINV : OK` (R262, R264, R268). -/
def noinvCode (flagged : Bool) : ErrCode := if flagged then .noinv else .ok

/-- ECDBL (R262). -/
def execEcdbl (rd rs1 : Fin 4) (s : State) : Host.Outcome State Fault Refusal :=
  if s.ecModulusOk then
    let r := ecDbl s.ecModulus s.curveA (s.point rs1)
    (s.setPoint rd r.1).finish (noinvCode r.2)
  else s.finish .param

/-- ECADD (R264). EC_A is not read. -/
def execEcadd (rd rs1 rs2 : Fin 4) (s : State) : Host.Outcome State Fault Refusal :=
  if s.ecModulusOk then
    let r := ecAdd s.ecModulus (s.point rs1) (s.point rs2)
    (s.setPoint rd r.1).finish (noinvCode r.2)
  else s.finish .param

/-- What the digit loop of ECMUL carries: the accumulator, whether NOINV is flagged, and the state with its cursor and
DUMMY. -/
structure MulLoop where
  acc : Affine
  noinv : Bool
  st : State

/-- One pass of the digit loop (R268, R270): double, pull, add ±base always, and let bit 0 of the symbol choose the
accumulator or DUMMY. -/
def ecmulPass (p : Nat) (curveA : Int) (base : Affine) (y : Symbol) (rest : List Symbol) (c : MulLoop) : MulLoop :=
  let d := ecDbl p curveA c.acc
  let a := ecAdd p d.1 (if Symbol.negative y then ecNeg p base else base)
  let st := c.st.pulled y rest
  if Symbol.nonzero y then ⟨a.1, c.noinv || d.2 || a.2, st⟩
  else ⟨d.1, c.noinv || d.2 || a.2, st.setDummy a.1⟩

/-- The digit loop over the symbols still to pull (R268). -/
def ecmulLoop (p : Nat) (curveA : Int) (base : Affine) : List Symbol → MulLoop → MulLoop
  | [], c => c
  | y :: rest, c => ecmulLoop p curveA base rest (ecmulPass p curveA base y rest c)

/-- ECMUL after its checks, on the state whose cursor the RCINIT body has loaded (R268): the first symbol sets the
accumulator to the base. -/
def ecmulBody (p : Nat) (curveA : Int) (base : Affine) (s : State) : MulLoop :=
  match s.cur.seq with
  | [] => ⟨⟨0, 0⟩, false, s⟩
  | y :: rest => ecmulLoop p curveA base rest ⟨base, false, s.pulled y rest⟩

/-- ECMUL (R268). -/
def execEcmul (rd rs1 : Fin 4) (m : Coding) (s : State) : Host.Outcome State Fault Refusal :=
  if s.ecModulusOk && s.kbitsOk then
    let r := ecmulBody s.ecModulus s.curveA (s.point rs1) (s.loadCursor m)
    (r.st.setPoint rd r.acc).finish (noinvCode r.noinv)
  else s.finish .param

end Sys2Proof.Machine
end

