-- ==== Sys2Proof/Machine/Bus.lean ====
section
/-! DEFINITION. The host's bus transactions (20_memory.md): the address map, which accesses are valid, and what a read
returns and a write does in the idle and in the busy block. -/

namespace Sys2Proof.Machine

/-- The two words of a 64-bit register: the low word at the lower offset (R92). -/
inductive Half where
  | lo
  | hi
deriving DecidableEq, Repr

/-- The registers of the control block (R55). -/
inductive ControlReg where
  | id
  | caps
  | ctrl
  | status
  | cmd
  | nttLogn
  | brtK
  | nttQ (h : Half)
  | nttRoot (h : Half)
  | nttRootinv (h : Half)
  | nttNinv (h : Half)
  | brtM (h : Half)
  | invqDbl (h : Half)
  | mulnX (h : Half)
  | mulnY (h : Half)
  | mulnR (h : Half)
  | nttGen (h : Half)
  | invqFlt
  | ecKbits
  | rcCount
  | rcRemain
  | rcSym
deriving DecidableEq, Repr

/-- The control block's map (R55). The offsets it does not list, 0x01C and 0x084–0x0FC, are RES (R54). -/
def controlMap : List (Nat × ControlReg) :=
  [(0x000, .id), (0x004, .caps), (0x008, .ctrl), (0x00C, .status), (0x010, .cmd), (0x014, .nttLogn), (0x018, .brtK),
    (0x020, .nttQ .lo), (0x024, .nttQ .hi), (0x028, .nttRoot .lo), (0x02C, .nttRoot .hi),
    (0x030, .nttRootinv .lo), (0x034, .nttRootinv .hi), (0x038, .nttNinv .lo), (0x03C, .nttNinv .hi),
    (0x040, .brtM .lo), (0x044, .brtM .hi), (0x048, .invqDbl .lo), (0x04C, .invqDbl .hi),
    (0x050, .mulnX .lo), (0x054, .mulnX .hi), (0x058, .mulnY .lo), (0x05C, .mulnY .hi),
    (0x060, .mulnR .lo), (0x064, .mulnR .hi), (0x068, .nttGen .lo), (0x06C, .nttGen .hi),
    (0x070, .invqFlt), (0x074, .ecKbits), (0x078, .rcCount), (0x07C, .rcRemain), (0x080, .rcSym)]

/-- The 128-byte slots of the EC registers (R96). -/
inductive EcSlot where
  | p
  | a
  | k
  | reserved
  | ptX (j : Fin 4)
  | ptY (j : Fin 4)
deriving DecidableEq, Repr

/-- The EC slots in the order of their offsets, from 0x1000 on (R96). -/
def ecSlots : List EcSlot :=
  [.p, .a, .k, .reserved, .ptX 0, .ptY 0, .ptX 1, .ptY 1, .ptX 2, .ptY 2, .ptX 3, .ptY 3]

/-- What an aligned word of the window is (R94). -/
inductive Target where
  /-- A register of the control block. -/
  | control (r : ControlReg)
  /-- A value word of an EC slot: words 0–17 (R96). -/
  | ecValue (slot : EcSlot) (word : Nat)
  /-- A RES word: it reads 0 and ignores writes (R54, R96). -/
  | res
  /-- A word of a bank (R95). -/
  | bank
  /-- A word of a twiddle table: the host's writes are ignored (R58, R95). -/
  | table
  /-- An unmapped offset (R97). -/
  | unmapped
deriving DecidableEq, Repr

/-- The register at an offset, by a look through the map. -/
def controlAt (off : Nat) : List (Nat × ControlReg) → Target
  | [] => .res
  | (o, r) :: rest => if o = off then .control r else controlAt off rest

/-- The word of the EC slots at a distance from 0x1000: slot `rel / 128`, word `rel mod 128 / 4` (R64, R96). -/
def ecTarget (rel : Nat) : Target :=
  match ecSlots[rel / 128]? with
  | none => .unmapped
  | some .reserved => .res
  | some slot => if rel % 128 / 4 < 18 then .ecValue slot (rel % 128 / 4) else .res

/-- The window's map (R94). -/
def targetOf (off : Nat) : Target :=
  if off < 0x100 then controlAt off controlMap
  else if off < 0x1000 then .unmapped
  else if off < 0x1600 then ecTarget (off - 0x1000)
  else if off < 0x10000 then .unmapped
  else if off < 0x18000 then .bank
  else if off < 0x1C000 then .table
  else .unmapped

/-- An access is valid when its size is 4, its offset is a multiple of 4 and the offset is mapped (R97). -/
def accessValid (off size : Nat) : Bool := size == 4 && off % 4 == 0 && targetOf off != .unmapped

/-- One word of a 64-bit register (R92). -/
def halfOf (h : Half) (v : Dword) : Word :=
  match h with
  | .lo => v.extractLsb' 0 32
  | .hi => v.extractLsb' 32 32

/-- A 64-bit register with one word replaced (R92, R100). -/
def withHalf (h : Half) (v : Dword) (w : Word) : Dword :=
  match h with
  | .lo => (v.extractLsb' 32 32 : Word) ++ w
  | .hi => w ++ (v.extractLsb' 0 32 : Word)

/-- Word `j` of an EC register: bits [32j+31:32j] (R64, R92). -/
def ecWord (v : EcWord) (j : Nat) : Word := v.extractLsb' (32 * j) 32

/-- An EC register with word `j` replaced (R64, R100, R356). -/
def withEcWord (v : EcWord) (j : Nat) (w : Word) : EcWord :=
  (v &&& ~~~((0xFFFFFFFF : EcWord) <<< (32 * j))) ||| (w.setWidth 576 <<< (32 * j))

/-- What a read of a control register returns in the idle block (R32–R53). -/
def State.readControl (s : State) : ControlReg → Word
  | .id => BitVec.ofNat 32 Config.idWord
  | .caps => capsWord
  | .ctrl => s.ctrl.toWord
  | .status => s.statusWord
  | .cmd => s.cmd
  | .nttLogn => s.nttLogn.setWidth 32
  | .brtK => BitVec.ofNat 32 (barrettShift s.ctrl.tier)
  | .nttQ h => halfOf h s.nttQ
  | .nttRoot h => halfOf h s.nttRoot
  | .nttRootinv h => halfOf h s.nttRootinv
  | .nttNinv h => halfOf h s.nttNinv
  | .brtM h => halfOf h (barrettConstant s.ctrl.tier s.nttQ.toNat)
  | .invqDbl h => halfOf h (invqDouble s.nttQ.toNat)
  | .mulnX h => halfOf h s.mulnX
  | .mulnY h => halfOf h s.mulnY
  | .mulnR h => halfOf h s.mulnR
  | .nttGen h => halfOf h s.nttGen
  | .invqFlt => invqFloat s.nttQ.toNat
  | .ecKbits => s.ecKbits.setWidth 32
  | .rcCount => s.rcCount.setWidth 32
  | .rcRemain => s.rcRemain.setWidth 32
  | .rcSym => (Symbol.code s.rcSym).setWidth 32

/-- The register behind an EC slot (R96). -/
def State.readSlot (s : State) : EcSlot → EcWord
  | .p => s.ecP
  | .a => s.ecA
  | .k => s.ecK
  | .reserved => 0
  | .ptX j => (s.pt[j]).x
  | .ptY j => (s.pt[j]).y

/-- The state with the register behind an EC slot replaced (R96). -/
def State.writeSlot (s : State) (slot : EcSlot) (v : EcWord) : State :=
  match slot with
  | .p => { s with ecP := v }
  | .a => { s with ecA := v }
  | .k => { s with ecK := v }
  | .reserved => s
  | .ptX j => { s with pt := s.pt.set j { s.pt[j] with x := v } }
  | .ptY j => { s with pt := s.pt.set j { s.pt[j] with y := v } }

/-- What a valid read returns while BUSY = 0. -/
def State.readTarget (s : State) (off : Nat) : Target → Word
  | .control r => s.readControl r
  | .ecValue slot j => ecWord (s.readSlot slot) j
  | .res => 0
  | .bank => BitVec.ofNat 32 (ofLeBytes (s.loadBytes off 4))
  | .table => BitVec.ofNat 32 (ofLeBytes (s.loadBytes off 4))
  | .unmapped => 0

/-- The reads that stay defined while BUSY = 1 (R102). -/
def readableWhileBusy : Target → Bool
  | .control .id | .control .caps | .control .ctrl | .control .status | .control .cmd => true
  | _ => false

/-- A host read (R97, R99, R102): the port's read data, and BUSERR for an invalid access. A read that R102 leaves
unspecified returns the next free value (log entry 6). -/
def State.hostRead (s : State) (off size : Nat) : State :=
  if !accessValid off size then { s.setBuserr with rdata := 0 }
  else if s.busy && !readableWhileBusy (targetOf off) then
    { s with rdata := Config.busyRead s.draws, draws := s.draws + 1 }
  else { s with rdata := s.readTarget off (targetOf off) }

/-- A write to CTRL: the fields of R33; PVALID is cleared when TIER changes (R33, R56). -/
def State.writeCtrl (s : State) (v : Word) : State :=
  if (Ctrl.ofWord v).tier = s.ctrl.tier then { s with ctrl := Ctrl.ofWord v }
  else { s.setPvalid false with ctrl := Ctrl.ofWord v }

/-- An accepted write to a control register (R33–R53, R56, R150). Read-only registers ignore it. -/
def State.writeControl (s : State) (r : ControlReg) (v : Word) : State :=
  match r with
  | .ctrl => s.writeCtrl v
  | .status => { s with status := Status.writeOneToClear s.status v }
  | .cmd => s.accept v
  | .nttLogn => { s.setPvalid false with nttLogn := v.extractLsb' 0 4 }
  | .nttQ h => { s.setPvalid false with nttQ := withHalf h s.nttQ v }
  | .nttRoot h => { s.setPvalid false with nttRoot := withHalf h s.nttRoot v }
  | .mulnX h => { s with mulnX := withHalf h s.mulnX v }
  | .mulnY h => { s with mulnY := withHalf h s.mulnY v }
  | .ecKbits => { s with ecKbits := v.extractLsb' 0 10 }
  | .id | .caps | .brtK | .nttRootinv _ | .nttNinv _ | .brtM _ | .invqDbl _ | .mulnR _ | .nttGen _ | .invqFlt
  | .rcCount | .rcRemain | .rcSym => s

/-- What a valid write does while BUSY = 0. -/
def State.writeTarget (s : State) (off : Nat) (v : Word) : Target → State
  | .control r => s.writeControl r v
  | .ecValue slot j => s.writeSlot slot (withEcWord (s.readSlot slot) j v)
  | .bank => s.storeBytes off (leBytes 4 v.toNat)
  | .res | .table | .unmapped => s

/-- A host write (R97, R99, R101): an invalid one sets BUSERR; while BUSY = 1 only STATUS takes a write, and any other
is dropped and sets OVR. -/
def State.hostWrite (s : State) (off size : Nat) (v : Word) : State :=
  if !accessValid off size then s.setBuserr
  else if s.busy && targetOf off != .control .status then s.setOvr
  else s.writeTarget off v (targetOf off)

/-- Whether an offset is one of the window's (R90). Beyond it lie other devices (R94, log entry 10). -/
def inWindow (off : Nat) : Bool := decide (off < Config.span)

/-- A bus read as an event: the window's, or no business of the block (R94). -/
def busReadStep (off size : Nat) (s : State) : Host.Outcome State Fault Refusal :=
  if inWindow off then .next (s.hostRead off size) else .fault (.outsideWindow off)

/-- A bus write as an event: the window's, or no business of the block (R94). -/
def busWriteStep (off size : Nat) (v : Word) (s : State) : Host.Outcome State Fault Refusal :=
  if inWindow off then .next (s.hostWrite off size v) else .fault (.outsideWindow off)

end Sys2Proof.Machine
end

