-- ==== Sys2Proof/Machine/Ntt.lean ====
section
/-! DEFINITION. The commands of 41_ntt.md. The list functions are the pure functions of R210; RMODE enters none of
them (R190). -/

namespace Sys2Proof.Machine

/-- The pointwise product mod Q of PMUL and TWMUL (R193, R195). -/
def pmulSeq (q : Nat) (a b : List Int) : List Int := List.zipWith (fun x y => zmod q (x * y)) a b

/-- The permutation of BITREV on 2^l coefficients; nothing is reduced (R197). -/
def bitrevSeq (l : Nat) (a : List Int) : List Int := (List.range (2 ^ l)).map fun i => a.getD (revBits l i) 0

/-- The products of SCALE with n^{-1} (R203). -/
def scaleSeq (q ninv : Nat) (a : List Int) : List Int := a.map fun x => zmod q (x * ninv)

/-- The residues of REDUCE (R205). -/
def reduceSeq (q : Nat) (a : List Int) : List Int := a.map (zmod q)

/-- The centred residue of R207. -/
def centered (q : Nat) (x : Int) : Int := if (q / 2 : Nat) < zmod q x then zmod q x - q else zmod q x

/-- The centred residues of CENTER (R207). -/
def centerSeq (q : Nat) (a : List Int) : List Int := a.map (centered q)

/-- The inner loop of R199 on one block: `u` is the block's lower half, `t` the twiddled upper half. -/
def butterfly (q : Nat) (ws u v : List Int) : List Int :=
  List.zipWith (fun x y => zmod q (x + y)) u (pmulSeq q ws v)
    ++ List.zipWith (fun x y => zmod q (x - y)) u (pmulSeq q ws v)

/-- The loop over `start` of R199: a butterfly on each of the given number of blocks of `2·half` values. -/
def blocks (q half : Nat) (ws : List Int) : Nat → List Int → List Int
  | 0, _ => []
  | k + 1, v =>
    butterfly q ws (v.take half) ((v.drop half).take half) ++ blocks q half ws k (v.drop (2 * half))

/-- The twiddles `mod_Q(tab(T, 2·j·step))` for j < half (R199). -/
def stageTwiddles (q half step : Nat) (tw : List Int) : List Int :=
  (List.range half).map fun j => zmod q (tw.getD (2 * j * step) 0)

/-- The loop over `len` of R199: the first stages, up to the given number, of a transform of 2^l values. Stage k has
`half = 2^k`, `len = 2^(k+1)` and `step = n / len = 2^(l−1−k)`, which is also its number of blocks. -/
def stages (q l : Nat) (tw : List Int) : Nat → List Int → List Int
  | 0, v => v
  | k + 1, v =>
    blocks q (2 ^ k) (stageTwiddles q (2 ^ k) (2 ^ (l - 1 - k)) tw) (2 ^ (l - 1 - k)) (stages q l tw k v)

/-- The transform of R199: radix-2 decimation in time, bit-reversed input, natural-order output. -/
def xformSeq (q l : Nat) (tw a : List Int) : List Int := stages q l tw l (reduceSeq q a)

/-- `XFORM_FWD( BITREV( TWMUL_FWD(a) ) )` (R210). -/
def nttfSeq (q l : Nat) (fwd a : List Int) : List Int := xformSeq q l fwd (bitrevSeq l (pmulSeq q a fwd))

/-- `SCALE( TWMUL_INV( XFORM_INV( BITREV(a) ) ) )` (R212). -/
def nttiSeq (q l ninv : Nat) (inv a : List Int) : List Int :=
  scaleSeq q ninv (pmulSeq q (xformSeq q l inv (bitrevSeq l a)) inv)

/-- `NTTI( PMUL( NTTF(a), NTTF(b) ) )` (R214). -/
def polymulSeq (q l ninv : Nat) (fwd inv a b : List Int) : List Int :=
  nttiSeq q l ninv inv (pmulSeq q (nttfSeq q l fwd a) (nttfSeq q l fwd b))

/-- The template of the bank commands (41_ntt.md, opening): the check at the command's level, then the results, read
from the state before any write, to Bank[d]. -/
def bankCommand (level : CheckLevel) (d : Fin 4) (c : List Int) (s : State) : Host.Outcome State Fault Refusal :=
  if s.nttCheck level then (s.writeBank d c).finish .ok else s.finish .param

/-- MULN (R191). -/
def execMuln (s : State) : Host.Outcome State Fault Refusal :=
  if s.nttCheck .scalar then
    { s with mulnR := sext64 (zmod s.modulus (sint s.width s.mulnX * sint s.width s.mulnY)) }.finish .ok
  else s.finish .param

/-- PMUL (R193). -/
def execPmul (rd rs1 rs2 : Fin 4) (s : State) : Host.Outcome State Fault Refusal :=
  bankCommand .length rd (pmulSeq s.modulus (s.coefs rs1) (s.coefs rs2)) s

/-- TWMUL (R195). -/
def execTwmul (rd rs1 : Fin 4) (t : Table) (s : State) : Host.Outcome State Fault Refusal :=
  bankCommand .tables rd (pmulSeq s.modulus (s.coefs rs1) (s.twiddles t)) s

/-- BITREV (R197). -/
def execBitrev (rd rs1 : Fin 4) (s : State) : Host.Outcome State Fault Refusal :=
  bankCommand .length rd (bitrevSeq s.logn (s.coefs rs1)) s

/-- XFORM (R199). -/
def execXform (rd rs1 : Fin 4) (t : Table) (s : State) : Host.Outcome State Fault Refusal :=
  bankCommand .tables rd (xformSeq s.modulus s.logn (s.twiddles t) (s.coefs rs1)) s

/-- SCALE (R203). -/
def execScale (rd rs1 : Fin 4) (s : State) : Host.Outcome State Fault Refusal :=
  bankCommand .tables rd (scaleSeq s.modulus s.nttNinv.toNat (s.coefs rs1)) s

/-- REDUCE (R205). -/
def execReduce (rd rs1 : Fin 4) (s : State) : Host.Outcome State Fault Refusal :=
  bankCommand .length rd (reduceSeq s.modulus (s.coefs rs1)) s

/-- CENTER (R207). -/
def execCenter (rd rs1 : Fin 4) (s : State) : Host.Outcome State Fault Refusal :=
  bankCommand .length rd (centerSeq s.modulus (s.coefs rs1)) s

/-- NTTF (R210). -/
def execNttf (rd rs1 : Fin 4) (s : State) : Host.Outcome State Fault Refusal :=
  bankCommand .tables rd (nttfSeq s.modulus s.logn (s.twiddles .fwd) (s.coefs rs1)) s

/-- NTTI (R212). -/
def execNtti (rd rs1 : Fin 4) (s : State) : Host.Outcome State Fault Refusal :=
  bankCommand .tables rd (nttiSeq s.modulus s.logn s.nttNinv.toNat (s.twiddles .inv) (s.coefs rs1)) s

/-- POLYMUL (R214). -/
def execPolymul (rd rs1 rs2 : Fin 4) (s : State) : Host.Outcome State Fault Refusal :=
  bankCommand .tables rd
    (polymulSeq s.modulus s.logn s.nttNinv.toNat (s.twiddles .fwd) (s.twiddles .inv) (s.coefs rs1) (s.coefs rs2)) s

end Sys2Proof.Machine
end

