-- ==== Sys2Proof/Machine/Roots.lean ====
section
/-! DEFINITION. The commands of 40_common_limb_roots.md: NOP, PRIMROOT and ROOTGEN. -/

namespace Sys2Proof.Machine

/-- NOP (R160). -/
def execNop (s : State) : Host.Outcome State Fault Refusal := s.finish .ok

/-- PRIMROOT (R168): the least generator of (ℤ/Q)^× to NTT_GEN, or 0 and NOROOT. -/
def execPrimroot (s : State) : Host.Outcome State Fault Refusal :=
  if s.nttCheck .scalar then
    match generatorSearch s.modulus with
    | some g => { s with nttGen := BitVec.ofNat 64 g }.finish .ok
    | none => { s with nttGen := 0 }.finish .noroot
  else s.finish .param

/-- The cells `zext_64(pow_Q(r, i))` for i < n (R172). -/
def powerCells (q n : Nat) (r : Int) : List Dword :=
  (List.range n).map fun i => BitVec.ofNat 64 (powMod q r.toNat i)

/-- ROOTGEN once ψ is settled (R172): the two inverses, the two tables, the three constants and PVALID. -/
def rootgenWith (psi : Int) (s : State) : Host.Outcome State Fault Refusal :=
  match invMod? s.modulus psi, invMod? s.modulus (s.len : Nat) with
  | some psiinv, some ninv =>
    State.finish
      { ((s.storeCells (tableBase .fwd) (powerCells s.modulus s.len psi)).storeCells (tableBase .inv)
          (powerCells s.modulus s.len psiinv)).setPvalid true with
        nttRoot := BitVec.ofInt 64 psi
        nttRootinv := BitVec.ofInt 64 psiinv
        nttNinv := BitVec.ofInt 64 ninv } .ok
  | _, _ => (s.setPvalid false).finish .noinv

/-- ROOTGEN (R172). NTT_ROOT = 0 asks for a search; any other value is reduced mod Q and not validated. A PARAM leaves
PVALID as it was (log entry 8). -/
def execRootgen (s : State) : Host.Outcome State Fault Refusal :=
  if s.nttCheck .length then
    if s.nttRoot.toNat = 0 then
      match rootSearch s.modulus s.len with
      | some psi => rootgenWith psi s
      | none => ({ s with nttRoot := 0 }.setPvalid false).finish .noroot
    else rootgenWith (zmod s.modulus s.nttRoot.toNat) s
  else s.finish .param

end Sys2Proof.Machine
end

