-- ==== Sys2Proof/Machine/Dispatch.lean ====
section
/-! DEFINITION. The meaning of each command (R126): the whole completion step of the command, from the state in which
it is pending to the state after its completion (R151). -/

namespace Sys2Proof.Machine

def exec (i : Instr) (s : State) : Host.Outcome State Fault Refusal :=
  match i with
  | .nop => Sys2Proof.Machine.execNop s
  | .muln => Sys2Proof.Machine.execMuln s
  | .rootgen => Sys2Proof.Machine.execRootgen s
  | .primroot => Sys2Proof.Machine.execPrimroot s
  | .pmul rd rs1 rs2 => Sys2Proof.Machine.execPmul rd rs1 rs2 s
  | .twmul rd rs1 t => Sys2Proof.Machine.execTwmul rd rs1 t s
  | .bitrev rd rs1 => Sys2Proof.Machine.execBitrev rd rs1 s
  | .xform rd rs1 t => Sys2Proof.Machine.execXform rd rs1 t s
  | .scale rd rs1 => Sys2Proof.Machine.execScale rd rs1 s
  | .reduce rd rs1 => Sys2Proof.Machine.execReduce rd rs1 s
  | .center rd rs1 => Sys2Proof.Machine.execCenter rd rs1 s
  | .nttf rd rs1 => Sys2Proof.Machine.execNttf rd rs1 s
  | .ntti rd rs1 => Sys2Proof.Machine.execNtti rd rs1 s
  | .polymul rd rs1 rs2 => Sys2Proof.Machine.execPolymul rd rs1 rs2 s
  | .rcinit m => Sys2Proof.Machine.execRcinit m s
  | .rcpull => Sys2Proof.Machine.execRcpull s
  | .ecdbl rd rs1 => Sys2Proof.Machine.execEcdbl rd rs1 s
  | .ecadd rd rs1 rs2 => Sys2Proof.Machine.execEcadd rd rs1 rs2 s
  | .ecmul rd rs1 m => Sys2Proof.Machine.execEcmul rd rs1 m s

end Sys2Proof.Machine
end

