-- ==== Sys2Proof/Machine/Engine.lean ====
section
/-! DEFINITION. The engine's turn (R151, R152) and what an event does: the parts of a step. -/

namespace Sys2Proof.Machine

/-- The completion step of a pending word (R151, R152): an illegal word changes nothing but STATUS (R128). -/
def executeWord (w : Word) (s : State) : Host.Outcome State Fault Refusal :=
  match decode w with
  | .ok i => exec i s
  | .error _ => s.finish .illegal

/-- The engine's turn: the completion step while BUSY = 1, nothing while BUSY = 0 (R151, R336). -/
def engineTurn (s : State) : Host.Outcome State Fault Refusal :=
  match s.pend with
  | some w => executeWord w s
  | none => .next s

/-- What one event does (R16, R18, R340). -/
def eventStep (e : Event) (s : State) : Host.Outcome State Fault Refusal :=
  match e with
  | .busRead off size => busReadStep off size s
  | .busWrite off size data => busWriteStep off size data s
  | .engine => engineTurn s
  | .reset => .next s.onReset

/-- The events after which the very next turn is the engine's: with none to come it is so already. -/
def engineFirst : List Event → List Event
  | [] => []
  | e :: es => .engine :: e :: es

end Sys2Proof.Machine
end

