-- ==== Sys2Proof/Machine/Step.lean ====
section
/-! DEFINITION. One step of the block: the next event to come, or the engine's turn when none is to come (R16, R103,
R104, log entry 1), and the state in which a given command word is the next the engine runs. -/

namespace Sys2Proof.Machine

/-- One step. -/
def step (s : State) : Host.Outcome State Fault Refusal :=
  match s.inputs with
  | [] => engineTurn s
  | e :: rest => eventStep e { s with inputs := rest }

/-- `s` right after a CMD write of the given word was accepted (R150), with the engine's turn next. The block fetches
nothing (R107); this stands for the host's write (log entry 2). -/
def State.withFetchWord (s : State) (nbits w : Nat) : State :=
  { s.accept (tableWord nbits w) with inputs := engineFirst s.inputs }

end Sys2Proof.Machine
end

