-- ==== Sys2Proof/Safety.lean ====
section
/-! DEFINITION. The terms the statements are made in: frames, what a valid parameter set is, the invariants of the
block, and the sets of rules R154 and R302. -/

namespace Sys2Proof.Machine

/-- A bank command has done its work (41_ntt.md, opening; R57, R151): cells 0 to n−1 of Bank[d] hold `c`
sign-extended, every other byte of the banks and tables reads as before, STATUS shows an OK completion, and nothing
else has changed. -/
def BankResult (s t : State) (d : Fin 4) (c : Nat → Int) : Prop :=
  t = { s with mem := t.mem, pend := none, status := { s.status with errcode := .ok, done := true } }
    ∧ (∀ i < s.len, t.cellAt (bankBase d) i = sext64 (c i))
    ∧ ∀ a, (a < bankBase d ∨ bankBase d + 8 * s.len ≤ a) → t.byteAt a = s.byteAt a

/-- A command that failed a check has changed nothing but STATUS (R153): the state it leaves. -/
def onlyStatus (s : State) (code : ErrCode) : State :=
  { s with pend := none, status := { s.status with errcode := code, done := true } }

/-- A bank command does what its rule says (41_ntt.md, opening; R153): its word, its results when `ntt_check` passes at
its level, and PARAM with nothing written when it does not. -/
def BankCommandMeans (i : Instr) (w : Nat) (l : CheckLevel) (d : Fin 4) (c : State → Nat → Int) : Prop :=
  encode i = BitVec.ofNat 32 w ∧ ∀ s : State,
    (s.nttCheck l = true → ∃ t, exec i s = .next t ∧ BankResult s t d (c s))
      ∧ (s.nttCheck l = false → exec i s = .next (onlyStatus s .param))

/-- The constants and the tables are those of the parameters (R59, R172): NTT_ROOT is a residue ψ, NTT_ROOTINV its
inverse, NTT_NINV the inverse of n, and the tables hold their powers. -/
def TablesMatch (s : State) : Prop :=
  s.ctrl.tier ≠ 3 ∧ 2 ≤ s.modulus ∧ s.modulus < 2 ^ (s.width - 1) ∧ 1 ≤ s.logn ∧ s.logn ≤ Config.logNMax
    ∧ s.nttRoot.toNat < s.modulus ∧ s.nttRootinv.toNat < s.modulus ∧ s.nttNinv.toNat < s.modulus
    ∧ s.nttRoot.toNat * s.nttRootinv.toNat % s.modulus = 1
    ∧ s.len * s.nttNinv.toNat % s.modulus = 1
    ∧ ∀ i < s.len, s.cellAt (tableBase .fwd) i = BitVec.ofNat 64 (s.nttRoot.toNat ^ i % s.modulus)
      ∧ s.cellAt (tableBase .inv) i = BitVec.ofNat 64 (s.nttRootinv.toNat ^ i % s.modulus)

/-- PVALID is never 1 over stale tables (R56, R59). -/
def PvalidSound (s : State) : Prop := s.status.pvalid = true → TablesMatch s

/-- The premise of R201: the tables are those of a ψ with `pow_Q(ψ, n) = Q − 1`. -/
def NegacyclicTables (s : State) : Prop :=
  TablesMatch s ∧ s.nttRoot.toNat ^ s.len % s.modulus = s.modulus - 1

/-- The shape every run keeps: the RAM in canonical form and inside its range (R94); DONE reads 0 while BUSY = 1 (R36)
and CMD holds the pending word (R150); RC_REMAIN is the length of the cursor, which holds at most DIGMAX symbols (R65);
IS_SCA_DUMMY is never produced (R249). -/
def ShapeOk (s : State) : Prop :=
  (Memory.wf s.mem = true ∧ ∀ c ∈ s.mem, 0x10000 ≤ c.1 ∧ c.1 < Config.span)
    ∧ (s.busy = true → s.status.done = false)
    ∧ (∀ w, s.pend = some w → s.cmd = w)
    ∧ s.rcRemain.toNat = s.cur.seq.length
    ∧ s.cur.seq.length ≤ Config.digMax
    ∧ s.rcCount.toNat ≤ Config.digMax
    ∧ (∀ y ∈ s.cur.seq, y ≠ Symbol.scaDummy)
    ∧ s.rcSym ≠ Symbol.scaDummy

/-- The level of `ntt_check` each NTT command calls (R154). -/
def nttLevel : Instr → Option CheckLevel
  | .muln | .primroot => some .scalar
  | .rootgen | .pmul _ _ _ | .bitrev _ _ | .reduce _ _ | .center _ _ => some .length
  | .twmul _ _ _ | .xform _ _ _ | .scale _ _ | .nttf _ _ | .ntti _ _ | .polymul _ _ _ => some .tables
  | .nop | .rcinit _ | .rcpull | .ecdbl _ _ | .ecadd _ _ _ | .ecmul _ _ _ => none

/-- The codes a legal word of each command can report (R302). -/
def possibleCodes : Instr → List ErrCode
  | .nop => [.ok]
  | .muln => [.ok, .param]
  | .rootgen => [.ok, .param, .noroot, .noinv]
  | .primroot => [.ok, .param, .noroot]
  | .pmul _ _ _ | .bitrev _ _ | .reduce _ _ | .center _ _ => [.ok, .param]
  | .twmul _ _ _ | .xform _ _ _ | .scale _ _ | .nttf _ _ | .ntti _ _ | .polymul _ _ _ => [.ok, .param]
  | .rcinit _ => [.ok, .param]
  | .rcpull => [.ok, .rcempty]
  | .ecdbl _ _ | .ecadd _ _ _ | .ecmul _ _ _ => [.ok, .param, .noinv]

/-- `g` generates (ℤ/Q)^× and is one of the candidates of R168. -/
def IsGenerator (q g : Nat) : Prop :=
  2 ≤ g ∧ g < q ∧ Nat.Coprime g q ∧ orderOf (g : ZMod q) = Nat.totient q

/-- ψ is the root ROOTGEN works with (R170, R172): the least root of the search when NTT_ROOT = 0, otherwise NTT_ROOT
mod Q. -/
def RootChosen (s : State) (psi : Nat) : Prop :=
  (s.nttRoot = 0 ∧ 2 ≤ psi ∧ psi ≤ s.modulus - 2 ∧ psi ^ s.len % s.modulus = s.modulus - 1
      ∧ ∀ m, 2 ≤ m → m < psi → m ^ s.len % s.modulus ≠ s.modulus - 1)
    ∨ (s.nttRoot ≠ 0 ∧ psi = s.nttRoot.toNat % s.modulus)

/-- The state with another reduction mode (R33, R190). -/
def State.withRmode (s : State) (r : BitVec 2) : State := { s with ctrl := { s.ctrl with rmode := r } }

/-- The state with another dummy point (R66). -/
def State.withDummy (s : State) (d : Point) : State := { s with dummy := d }

/-- The short Weierstrass curve y² = x³ + a·x + b over the integers mod p (R60, R274). -/
def shortCurve (p : Nat) (a b : ZMod p) : WeierstrassCurve (ZMod p) :=
  { a₁ := 0, a₂ := 0, a₃ := 0, a₄ := a, a₆ := b }

/-- The value of a digit sequence, most significant digit first (R245 item 1). -/
def digitsValue : List Int → Int
  | [] => 0
  | d :: ds => d * 2 ^ ds.length + digitsValue ds

/-- `u` is `inv_P(v)` (R156), and `missing` is whether NOINV is flagged: the inverse of `v` mod `p` in [0, p), or 0
where `v` and `p` have a common factor. -/
def InverseOrMissing (p v u : Int) (missing : Bool) : Prop :=
  if missing then u = 0 ∧ Int.gcd v p ≠ 1 else 0 ≤ u ∧ u < p ∧ u * v % p = 1

/-- `(x', y')` is `ec_dbl((x, y))`, and `missing` is whether it flags NOINV (R263). -/
def DoublesTo (p a x y x' y' : Int) (missing : Bool) : Prop :=
  if x = 0 ∧ y = 0 then x' = 0 ∧ y' = 0 ∧ missing = false
  else ∃ u lam, InverseOrMissing p (2 * y) u missing ∧ lam = (3 * x ^ 2 + a) * u % p
    ∧ x' = (lam ^ 2 - 2 * x) % p ∧ y' = (lam * (x - x') - y) % p

/-- `(x', y')` is `ec_add((xa, ya), (xb, yb))`, and `missing` is whether it flags NOINV (R265). -/
def AddsTo (p xa ya xb yb x' y' : Int) (missing : Bool) : Prop :=
  ∃ u lam, InverseOrMissing p (xb - xa) u missing ∧ lam = (yb - ya) * u % p
    ∧ x' = (lam ^ 2 - xa - xb) % p ∧ y' = (lam * (xa - x') - ya) % p

/-- The loop of R268 over the digits still to come, for the base `(baseX, baseY)`: from the accumulator `(x, y)` and the dummy
point `d` it ends with `(x', y')` and `d'`, and `missing` is whether some doubling or addition of it flags NOINV. Each
pass doubles, and adds −base to the double for the digit −1 and base for the others; the sum becomes the accumulator
when the digit is not 0, and the dummy point when it is (R270). -/
def DigitLoop (p a baseX baseY : Int) : List Int → (x y : Int) → (d : Point) → (x' y' : Int) → (d' : Point) → Bool → Prop
  | [], x, y, d, x', y', d', missing => x' = x ∧ y' = y ∧ d' = d ∧ missing = false
  | z :: rest, x, y, d, x', y', d', missing =>
    ∃ (dx dy sx sy : Int) (m₁ m₂ m₃ : Bool),
      DoublesTo p a x y dx dy m₁ ∧ AddsTo p dx dy baseX (if z = -1 then (-baseY) % p else baseY) sx sy m₂
        ∧ (if z = 0 then DigitLoop p a baseX baseY rest dx dy ⟨BitVec.ofInt 576 sx, BitVec.ofInt 576 sy⟩ x' y' d' m₃
            else DigitLoop p a baseX baseY rest sx sy d x' y' d' m₃)
        ∧ missing = (m₁ || m₂ || m₃)

/-- One pass of the outer loop of R199, cell by cell: with `half` and `step` of that pass, cell i is of a pair
(start + j, start + j + half) with j = i mod half; the lower cell of the pair becomes u + t and the upper u − t, where
u is the lower cell, t = w · (the upper cell) and w = tab(T, 2·j·step), all mod Q. -/
def loopStage (q half step : Nat) (tab v : Nat → Int) (i : Nat) : Int :=
  let w := tab (2 * (i % half) * step) % (q : Int)
  if i % (2 * half) < half then (v i + w * v (i + half) % (q : Int)) % (q : Int)
  else (v (i - half) - w * v i % (q : Int)) % (q : Int)

/-- The array v of R199 after the first `k` passes, whose `len` are 2, 4, …, 2^k. -/
def loopAfter (q n : Nat) (tab a : Nat → Int) : Nat → Nat → Int
  | 0 => fun i => a i % (q : Int)
  | k + 1 => loopStage q (2 ^ k) (n / 2 ^ (k + 1)) tab (loopAfter q n tab a k)

/-- What R199 leaves in cell i of the result, for n = 2^l: the array after the pass with `len` = n. -/
def xformValue (q l : Nat) (tab a : Nat → Int) : Nat → Int := loopAfter q (2 ^ l) tab a l

/-- `XFORM_FWD( BITREV( TWMUL_FWD(a) ) )` of R210, cell by cell. -/
def nttfValue (q l : Nat) (fwd a : Nat → Int) : Nat → Int :=
  xformValue q l fwd fun i => a (revBits l i) * fwd (revBits l i) % (q : Int)

/-- `SCALE( TWMUL_INV( XFORM_INV( BITREV(a) ) ) )` of R212, cell by cell. -/
def nttiValue (q l ninv : Nat) (inv a : Nat → Int) (i : Nat) : Int :=
  xformValue q l inv (fun j => a (revBits l j)) i * inv i % (q : Int) * (ninv : Int) % (q : Int)

/-- `NTTI( PMUL( NTTF(a), NTTF(b) ) )` of R214, cell by cell. -/
def polymulValue (q l ninv : Nat) (fwd inv a b : Nat → Int) : Nat → Int :=
  nttiValue q l ninv inv fun i => nttfValue q l fwd a i * nttfValue q l fwd b i % (q : Int)

/-- `y` is `x` with word `j` replaced by `v` (R64, R92). -/
def WordReplaced (x y : EcWord) (j : Nat) (v : Word) : Prop :=
  y.extractLsb' (32 * j) 32 = v ∧ ∀ i, i / 32 ≠ j → y.getLsbD i = x.getLsbD i

/-- A 64-bit value stands at an offset: its low word reads there and its high word at the next, with no effect but the
read data (R92). -/
def State.ReadsAs (s : State) (off : Nat) (v : Dword) : Prop :=
  s.hostRead off 4 = { s with rdata := v.extractLsb' 0 32 }
    ∧ s.hostRead (off + 4) 4 = { s with rdata := v.extractLsb' 32 32 }

/-- RCPULL issued `k` times in a row: the state after the last one (R242). -/
def pullTimes : Nat → State → Host.Outcome State Fault Refusal
  | 0, s => .next s
  | k + 1, s =>
    match exec .rcpull s with
    | .next t => pullTimes k t
    | .fault r => .fault r
    | .refused r => .refused r

end Sys2Proof.Machine
end

