-- ==== Sys2Proof/Certificates/Slice0/Obligations.lean ====
section
/-! DEFINITION. The statements for the provers. Each docstring names the rules of spec/ it comes from. Where a
statement rests on a choice of the model, it names the log entry. -/

open Sys2Proof Sys2Proof.Machine

/-! ### Command words -/

/-- Decoding the word of a command gives the command back, with every operand (R121, R124, R127). -/
def Obligations.DecodeOfEncode : Prop := ∀ i : Instr, decode (encode i) = .ok i

/-- A word that decodes is the word of the command it decodes to: no bit of it is dropped (R121, R123, R124). -/
def Obligations.EncodeOfDecode : Prop := ∀ (w : Word) (i : Instr), decode w = .ok i → encode i = w

/-- The decoder, written from R123 and R126, accepts exactly the words that match a row of R127's table, and calls a
word's opcode reserved exactly when no row has it (R128). -/
def Obligations.LegalWordsAreThoseOfThePatternTable : Prop :=
  ∀ w : Word,
    ((∃ i, decode w = .ok i) ↔ ∃ r ∈ patternTable, w &&& r.mask = r.pattern)
      ∧ (decode w = .error .reservedOpcode ↔ ∀ r ∈ patternTable, (w.extractLsb' 0 8).toNat ≠ r.pattern.toNat)

/-- Words written out in R131 and in the table of 95_test_vectors.md L2.1 decode as they say there. -/
def Obligations.SampleWordsDecode : Prop :=
  decode 0x00000002 = .ok .rootgen ∧ decode 0x00000118 = .ok (.nttf 1 0) ∧ decode 0x00001210 = .ok (.pmul 2 0 1)
    ∧ decode 0x00004F13 = .ok (.xform 3 3 .inv) ∧ decode 0x00004020 = .ok (.rcinit .bin)
    ∧ decode 0x00000130 = .ok (.ecdbl 1 0) ∧ decode 0x00001231 = .ok (.ecadd 2 0 1)
    ∧ decode 0x00000332 = .ok (.ecmul 3 0 .naf) ∧ decode 0x00000017 = .error .reservedOpcode
    ∧ decode 0x00008000 = .error .mustBeZero

/-! ### Steps and completions -/

/-- A step is the engine's turn or the next transaction. At the engine's turn, with a word pending that decodes to `i`,
it is `exec` of `i` (R151, R152), and with nothing pending it changes nothing (R336); the word of a command placed by
`withFetchWord` is the next one run (log entry 2). A bus event inside the window is the host's read or write, whole and
by itself (R103), and one beyond it stops the model (log entry 10, R94); a reset event is the block's reset (R340). That
the next event is the head of `inputs`, that an event is taken off the list, and that with no event to come it is the
engine's turn, is log entry 1 (DESIGN CHOICE). -/
def Obligations.StepRunsTheDecodedCommand : Prop :=
  (∀ (s : State) (w : Word) (i : Instr), s.pend = some w → decode w = .ok i →
    (s.inputs = [] → step s = exec i s)
      ∧ ∀ rest, s.inputs = Event.engine :: rest → step s = exec i { s with inputs := rest })
  ∧ (∀ (s : State) (i : Instr), step (s.withFetchWord 32 (encode i).toNat) = exec i (s.accept (encode i)))
  ∧ (∀ s : State, s.pend = none →
    (s.inputs = [] → step s = .next s)
      ∧ ∀ rest, s.inputs = Event.engine :: rest → step s = .next { s with inputs := rest })
  ∧ ∀ (s : State) (rest : List Event) (off size : Nat) (v : Word),
    let u : State := { s with inputs := rest }
    (s.inputs = Event.busRead off size :: rest →
      step s = if off < 0x1C000 then .next (u.hostRead off size) else .fault (.outsideWindow off))
    ∧ (s.inputs = Event.busWrite off size v :: rest →
      step s = if off < 0x1C000 then .next (u.hostWrite off size v) else .fault (.outsideWindow off))
    ∧ (s.inputs = Event.reset :: rest → step s = .next u.onReset)

/-- An illegal word completes with ILLEGAL and changes nothing but STATUS (R128, R152); which event the step takes off
the list is log entry 1. -/
def Obligations.IllegalWordChangesOnlyStatus : Prop :=
  ∀ (s : State) (w : Word), s.pend = some w → wordWellFormed w = false →
    engineTurn s = .next (onlyStatus s .illegal)
      ∧ (s.inputs = [] → step s = .next (onlyStatus s .illegal))
      ∧ ∀ rest, s.inputs = Event.engine :: rest → step s = .next (onlyStatus { s with inputs := rest } .illegal)

/-- Every command completes, with a code R302 lists for it, and leaves alone what only the host and the platform
write: CTRL, CMD, the parameters, the EC operands, OVR, BUSERR and the ports (R70, R151, R300, R302). -/
def Obligations.EveryCommandCompletesWithAListedCode : Prop :=
  ∀ (i : Instr) (s : State), ∃ t, exec i s = .next t
    ∧ t.pend = none ∧ t.status.done = true ∧ t.status.errcode ∈ possibleCodes i
    ∧ t.status.ovr = s.status.ovr ∧ t.status.buserr = s.status.buserr
    ∧ t.ctrl = s.ctrl ∧ t.cmd = s.cmd ∧ t.nttLogn = s.nttLogn ∧ t.nttQ = s.nttQ
    ∧ t.mulnX = s.mulnX ∧ t.mulnY = s.mulnY ∧ t.ecKbits = s.ecKbits
    ∧ t.ecP = s.ecP ∧ t.ecA = s.ecA ∧ t.ecK = s.ecK
    ∧ t.rdata = s.rdata ∧ t.inputs = s.inputs ∧ t.epoch = s.epoch ∧ t.draws = s.draws

/-- Only a completion sets DONE, and ERRCODE changes in a completion or a reset alone (R36, R301). -/
def Obligations.OnlyCompletionSetsDoneAndErrcode : Prop :=
  ∀ s t : State, step s = .next t →
    (s.status.done = false → t.status.done = true → s.busy = true ∧ t.busy = false)
      ∧ (t.status.errcode ≠ s.status.errcode →
          (s.busy = true ∧ t.busy = false ∧ t.status.done = true) ∨ ∃ rest, s.inputs = Event.reset :: rest)

/-- PVALID goes from 0 to 1 only in a ROOTGEN that completes with OK (R56). -/
def Obligations.PvalidIsSetOnlyByRootgen : Prop :=
  ∀ s t : State, step s = .next t → s.status.pvalid = false → t.status.pvalid = true →
    ∃ w, s.pend = some w ∧ decode w = .ok .rootgen ∧ t.status.errcode = .ok

/-- The width W (R13, R33): TIER 0, 1 and 2 give 16, 32 and 64, and a coefficient or a table cell is the signed value
of the low W bits of its cell (R57, R58). And `ntt_check` (R154, R153): a command of a level fails with PARAM, and
changes nothing but the completion fields of STATUS, when an item of its level holds; and when none holds, the check
passes. For ROOTGEN, that PARAM leaves PVALID is log entry 8 (DEDUCED: R172 says that PARAM writes nothing, R56 that an
error clears PVALID). -/
def Obligations.NttCheckFailureIsParam : Prop :=
  (∀ (s : State) (w : Nat), (s.ctrl.tier = 0 ∧ w = 16) ∨ (s.ctrl.tier = 1 ∧ w = 32) ∨ (s.ctrl.tier = 2 ∧ w = 64) →
    s.width = w ∧ ∀ i : Nat,
      (∀ b : Fin 4, s.coef b i = ((s.cellAt (bankBase b) i).extractLsb' 0 w).toInt)
        ∧ ∀ t : Table, s.twiddle t i = ((s.cellAt (tableBase t) i).extractLsb' 0 w).toInt)
  ∧ ∀ (i : Instr) (l : CheckLevel) (s : State), nttLevel i = some l →
    let w : Nat := if s.ctrl.tier = 0 then 16 else if s.ctrl.tier = 1 then 32 else 64
    let failing := s.ctrl.rmode = 3 ∨ s.ctrl.tier = 3 ∨ s.nttQ.toNat < 2 ∨ 2 ^ (w - 1) ≤ s.nttQ.toNat
      ∨ (l ≠ .scalar ∧ (s.nttLogn.toNat < 1 ∨ 10 < s.nttLogn.toNat)) ∨ (l = .tables ∧ s.status.pvalid = false)
    (failing → exec i s = .next (onlyStatus s .param)) ∧ (¬ failing → s.nttCheck l = true)

/-- `ec_check` and the KBITS check of RCINIT (R155): PARAM with nothing but STATUS changed. -/
def Obligations.EcCheckFailureIsParam : Prop :=
  ∀ (s : State) (rd rs1 rs2 : Fin 4) (m : Coding),
    (s.ecP.toNat < 3 → exec (.ecdbl rd rs1) s = .next (onlyStatus s .param)
        ∧ exec (.ecadd rd rs1 rs2) s = .next (onlyStatus s .param))
      ∧ (s.ecP.toNat < 3 ∨ 576 < s.ecKbits.toNat → exec (.ecmul rd rs1 m) s = .next (onlyStatus s .param))
      ∧ (576 < s.ecKbits.toNat → exec (.rcinit m) s = .next (onlyStatus s .param))

/-! ### NOP, MULN, PRIMROOT, ROOTGEN -/

/-- NOP (R160): its word, its completion with OK that changes nothing but STATUS, and R160's example. -/
def Obligations.NopOnlyCompletes : Prop :=
  encode .nop = 0 ∧ (∀ s : State, exec .nop s = .next (onlyStatus s .ok))
    ∧ ∀ s : State, s.status.pvalid = false → s.status.ovr = false → s.status.buserr = false →
      (onlyStatus s .ok).statusWord = 0x00000002

/-- MULN (R191): MULN_R is the residue of the exact product of the low W bits of MULN_X and MULN_Y, taken as signed,
with W = 16, 32 or 64 by TIER (R33). -/
def Obligations.MulnWritesTheResidueOfTheProduct : Prop :=
  encode .muln = 0x00000001 ∧ ∀ s : State,
    let w : Nat := if s.ctrl.tier = 0 then 16 else if s.ctrl.tier = 1 then 32 else 64
    (s.nttCheck .scalar = true → exec .muln s = .next { onlyStatus s .ok with
        mulnR := BitVec.ofInt 64
          ((s.mulnX.extractLsb' 0 w).toInt * (s.mulnY.extractLsb' 0 w).toInt % (s.nttQ.toNat : Int)) })
      ∧ (s.nttCheck .scalar = false → exec .muln s = .next (onlyStatus s .param))

/-- PRIMROOT (R168): NTT_GEN is the least generator of (ℤ/Q)^× among 2, …, Q − 1; without one it is 0 and the code is
NOROOT. Order and totient are the library's. -/
def Obligations.PrimrootFindsTheLeastGenerator : Prop :=
  encode .primroot = 0x00000003 ∧ ∀ s : State,
    (s.nttCheck .scalar = true →
      (∀ g, IsGenerator s.nttQ.toNat g → (∀ g', g' < g → ¬ IsGenerator s.nttQ.toNat g') →
        exec .primroot s = .next { onlyStatus s .ok with nttGen := BitVec.ofNat 64 g })
      ∧ ((∀ g, ¬ IsGenerator s.nttQ.toNat g) →
        exec .primroot s = .next { onlyStatus s .noroot with nttGen := 0 }))
    ∧ (s.nttCheck .scalar = false → exec .primroot s = .next (onlyStatus s .param))

/-- PRIMROOT leaves PVALID, the tables and ROOTGEN's registers alone, and ROOTGEN does not read NTT_GEN (R169). -/
def Obligations.PrimrootAndRootgenAreIndependent : Prop :=
  (∀ s t : State, exec .primroot s = .next t →
    t.status.pvalid = s.status.pvalid ∧ t.mem = s.mem ∧ (∀ a, t.byteAt a = s.byteAt a) ∧ t.nttRoot = s.nttRoot
      ∧ t.nttRootinv = s.nttRootinv ∧ t.nttNinv = s.nttNinv)
  ∧ ∀ (s t : State) (g : Dword), exec .rootgen s = .next t →
    exec .rootgen { s with nttGen := g } = .next { t with nttGen := g }

/-- ROOTGEN when a root is found or given and both inverses exist (R170, R172): the constants and the tables are those
of ψ, PVALID is 1, and no other byte of the banks and tables changes. -/
def Obligations.RootgenFillsTheTables : Prop :=
  encode .rootgen = 0x00000002 ∧ ∀ (s : State) (psi : Nat),
    s.nttCheck .length = true → RootChosen s psi → Nat.Coprime psi s.modulus → Nat.Coprime s.len s.modulus →
    ∃ t, exec .rootgen s = .next t
      ∧ t = { s with
          mem := t.mem, nttRoot := BitVec.ofNat 64 psi, nttRootinv := t.nttRootinv, nttNinv := t.nttNinv, pend := none
          status := { s.status with pvalid := true, errcode := .ok, done := true } }
      ∧ TablesMatch t
      ∧ ∀ a, (a < 0x18000 ∨ (0x18000 + 8 * s.len ≤ a ∧ a < 0x1A000) ∨ 0x1A000 + 8 * s.len ≤ a) →
          t.byteAt a = s.byteAt a

/-- ROOTGEN's failures (R172): without a root, NTT_ROOT and PVALID are cleared and the code is NOROOT; without one of
the two inverses, PVALID alone is cleared and the code is NOINV. -/
def Obligations.RootgenFailures : Prop :=
  ∀ s : State, s.nttCheck .length = true →
    (s.nttRoot = 0 → (∀ m, 2 ≤ m → m ≤ s.modulus - 2 → m ^ s.len % s.modulus ≠ s.modulus - 1) →
      exec .rootgen s = .next { s with
        nttRoot := 0, pend := none, status := { s.status with pvalid := false, errcode := .noroot, done := true } })
    ∧ ∀ psi, RootChosen s psi → ¬ (Nat.Coprime psi s.modulus ∧ Nat.Coprime s.len s.modulus) →
      exec .rootgen s = .next { s with
        pend := none, status := { s.status with pvalid := false, errcode := .noinv, done := true } }

/-! ### Bank commands -/

/-- PMUL (R193). -/
def Obligations.PmulMultipliesPointwise : Prop :=
  ∀ rd rs1 rs2 : Fin 4, BankCommandMeans (.pmul rd rs1 rs2) (0x10 + 256 * rd + 1024 * rs1 + 4096 * rs2) .length rd
    fun s i =>
    s.coef rs1 i * s.coef rs2 i % (s.nttQ.toNat : Int)

/-- TWMUL (R195), by either table. -/
def Obligations.TwmulMultipliesByTheTable : Prop :=
  ∀ (rd rs1 : Fin 4) (t : Table), BankCommandMeans (.twmul rd rs1 t)
    (0x11 + 256 * rd + 1024 * rs1 + if t = .inv then 16384 else 0) .tables rd fun s i =>
    s.coef rs1 i * s.twiddle t i % (s.nttQ.toNat : Int)

/-- BITREV (R197): the coefficients are moved, not reduced. -/
def Obligations.BitrevPermutesTheCoefficients : Prop :=
  ∀ rd rs1 : Fin 4, BankCommandMeans (.bitrev rd rs1) (0x12 + 256 * rd + 1024 * rs1) .length rd fun s i =>
    s.coef rs1 (revBits s.nttLogn.toNat i)

/-- SCALE (R203). -/
def Obligations.ScaleMultipliesByNinv : Prop :=
  ∀ rd rs1 : Fin 4, BankCommandMeans (.scale rd rs1) (0x14 + 256 * rd + 1024 * rs1) .tables rd fun s i =>
    s.coef rs1 i * (s.nttNinv.toNat : Int) % (s.nttQ.toNat : Int)

/-- REDUCE (R205). -/
def Obligations.ReduceWritesResidues : Prop :=
  ∀ rd rs1 : Fin 4, BankCommandMeans (.reduce rd rs1) (0x15 + 256 * rd + 1024 * rs1) .length rd fun s i =>
    s.coef rs1 i % (s.nttQ.toNat : Int)

/-- CENTER (R207): the centred residue, and its range. -/
def Obligations.CenterWritesCentredResidues : Prop :=
  (∀ rd rs1 : Fin 4, BankCommandMeans (.center rd rs1) (0x16 + 256 * rd + 1024 * rs1) .length rd fun s i =>
    if (s.nttQ.toNat : Int) / 2 < s.coef rs1 i % (s.nttQ.toNat : Int)
      then s.coef rs1 i % (s.nttQ.toNat : Int) - s.nttQ.toNat else s.coef rs1 i % (s.nttQ.toNat : Int))
  ∧ ∀ (rd rs1 : Fin 4) (s t : State) (i : Nat), s.nttCheck .length = true → exec (.center rd rs1) s = .next t →
      i < s.len → (s.nttQ.toNat : Int) / 2 - s.nttQ.toNat + 1 ≤ t.coef rd i ∧ t.coef rd i ≤ (s.nttQ.toNat : Int) / 2

/-- XFORM (R199), NTTF (R210), NTTI (R212) and POLYMUL (R214), for every table contents, whether or not ψ^n is −1: the
cells are those of R199's loop, pass by pass, and of its composites (`xformValue` to `polymulValue`, Safety.lean). -/
def Obligations.TransformCommandsWriteTheirSequences : Prop :=
  ∀ (rd rs1 rs2 : Fin 4) (t : Table),
    BankCommandMeans (.xform rd rs1 t) (0x13 + 256 * rd + 1024 * rs1 + if t = .inv then 16384 else 0) .tables rd
        (fun s => xformValue s.modulus s.logn (s.twiddle t) (s.coef rs1))
    ∧ BankCommandMeans (.nttf rd rs1) (0x18 + 256 * rd + 1024 * rs1) .tables rd
        (fun s => nttfValue s.modulus s.logn (s.twiddle .fwd) (s.coef rs1))
    ∧ BankCommandMeans (.ntti rd rs1) (0x19 + 256 * rd + 1024 * rs1) .tables rd
        (fun s => nttiValue s.modulus s.logn s.nttNinv.toNat (s.twiddle .inv) (s.coef rs1))
    ∧ BankCommandMeans (.polymul rd rs1 rs2) (0x1A + 256 * rd + 1024 * rs1 + 4096 * rs2) .tables rd
        (fun s => polymulValue s.modulus s.logn s.nttNinv.toNat (s.twiddle .fwd) (s.twiddle .inv) (s.coef rs1)
          (s.coef rs2))

/-- `rev_L` (R14): bit k becomes bit L−1−k, and reversing twice gives the index back. -/
def Obligations.RevBitsReversesTheBits : Prop :=
  ∀ l i : Nat, i < 2 ^ l → revBits l i < 2 ^ l
    ∧ (∀ k, k < l → (revBits l i).testBit (l - 1 - k) = i.testBit k) ∧ revBits l (revBits l i) = i

/-- NTTF leaves exactly the state that its primitive sequence `twmul fwd; bitrev; xform fwd` leaves (R132, R210). -/
def Obligations.NttfIsItsPrimitiveSequence : Prop :=
  ∀ (s : State) (rd rs1 : Fin 4), s.nttCheck .tables = true →
    ∃ t u v, exec (.twmul rd rs1 .fwd) s = .next t ∧ exec (.bitrev rd rd) t = .next u
      ∧ exec (.xform rd rd .fwd) u = .next v ∧ exec (.nttf rd rs1) s = .next v

/-- NTTI leaves exactly the state that `bitrev; xform inv; twmul inv; scale` leaves (R132, R212). -/
def Obligations.NttiIsItsPrimitiveSequence : Prop :=
  ∀ (s : State) (rd rs1 : Fin 4), s.nttCheck .tables = true →
    ∃ t u v w, exec (.bitrev rd rs1) s = .next t ∧ exec (.xform rd rd .inv) t = .next u
      ∧ exec (.twmul rd rd .inv) u = .next v ∧ exec (.scale rd rd) v = .next w ∧ exec (.ntti rd rs1) s = .next w

/-- POLYMUL's product is the one of the sequence NTTF, NTTF, PMUL, NTTI over two other banks (R214, R218). -/
def Obligations.PolymulIsItsPrimitiveSequence : Prop :=
  ∀ (s : State) (rd rs1 rs2 x y : Fin 4), s.nttCheck .tables = true → x ≠ y → x ≠ rs2 →
    ∃ t u v w r, exec (.nttf x rs1) s = .next t ∧ exec (.nttf y rs2) t = .next u ∧ exec (.pmul x x y) u = .next v
      ∧ exec (.ntti x x) v = .next w ∧ exec (.polymul rd rs1 rs2) s = .next r
      ∧ ∀ i < s.len, r.coef rd i = w.coef x i

/-- The DFT law (R201): with the tables of a ψ whose n-th power is −1, BITREV then XFORM gives the transform at the
powers of ω = ψ² (FWD) or of its inverse (INV). -/
def Obligations.XformComputesTheDft : Prop :=
  ∀ (s : State) (rd rs1 : Fin 4), s.nttCheck .tables = true → NegacyclicTables s →
    (∃ t u, exec (.bitrev rd rs1) s = .next t ∧ exec (.xform rd rd .fwd) t = .next u ∧ ∀ k < s.len,
      u.coef rd k = (∑ j ∈ Finset.range s.len, s.coef rs1 j * ((s.nttRoot.toNat : Int) ^ 2) ^ (j * k))
        % (s.nttQ.toNat : Int))
    ∧ ∃ t u, exec (.bitrev rd rs1) s = .next t ∧ exec (.xform rd rd .inv) t = .next u ∧ ∀ k < s.len,
      u.coef rd k = (∑ j ∈ Finset.range s.len, s.coef rs1 j * ((s.nttRootinv.toNat : Int) ^ 2) ^ (j * k))
        % (s.nttQ.toNat : Int)

/-- The round-trip law (R216): NTTI after NTTF gives the residues back, and CENTER after that the coefficients that
lie in the centred range. -/
def Obligations.InverseTransformUndoesTheForward : Prop :=
  ∀ (s : State) (rd rs1 : Fin 4), s.nttCheck .tables = true → NegacyclicTables s →
    ∃ t u v, exec (.nttf rd rs1) s = .next t ∧ exec (.ntti rd rd) t = .next u ∧ exec (.center rd rd) u = .next v
      ∧ ∀ i < s.len, u.coef rd i = s.coef rs1 i % (s.nttQ.toNat : Int)
        ∧ ((s.nttQ.toNat : Int) / 2 - s.nttQ.toNat + 1 ≤ s.coef rs1 i →
            s.coef rs1 i ≤ (s.nttQ.toNat : Int) / 2 → v.coef rd i = s.coef rs1 i)

/-- The negacyclic-convolution law (R218): POLYMUL multiplies in ℤ_Q[x]/(x^n + 1), and so does the sequence NTTF, NTTF,
PMUL, NTTI over two other banks. -/
def Obligations.PolymulIsNegacyclicConvolution : Prop :=
  ∀ (s : State) (rd rs1 rs2 x y : Fin 4), s.nttCheck .tables = true → NegacyclicTables s → x ≠ y → x ≠ rs2 →
    let product := fun k : Nat =>
      ((∑ i ∈ Finset.range s.len, ∑ j ∈ Finset.range s.len,
            if i + j = k then s.coef rs1 i * s.coef rs2 j else 0)
          - ∑ i ∈ Finset.range s.len, ∑ j ∈ Finset.range s.len,
            if i + j = k + s.len then s.coef rs1 i * s.coef rs2 j else 0) % (s.nttQ.toNat : Int)
    (∃ t, exec (.polymul rd rs1 rs2) s = .next t ∧ ∀ k < s.len, t.coef rd k = product k)
    ∧ ∃ t u v w, exec (.nttf x rs1) s = .next t ∧ exec (.nttf y rs2) t = .next u ∧ exec (.pmul x x y) u = .next v
        ∧ exec (.ntti x x) v = .next w ∧ ∀ k < s.len, w.coef x k = product k

/-- Reduction-mode equivalence (R190): among the modes 0, 1 and 2, RMODE changes no result, no error and no written
state of any command. -/
def Obligations.ReductionModeChangesNothing : Prop :=
  ∀ (i : Instr) (s t : State) (r : BitVec 2), s.ctrl.rmode ≠ 3 → r ≠ 3 → exec i s = .next t →
    exec i (s.withRmode r) = .next (t.withRmode r)

/-! ### The recoder -/

/-- RCINIT (R240): the words, the cursor of the low KBITS bits of EC_K, and the two counts. -/
def Obligations.RcinitLoadsTheCursor : Prop :=
  encode (.rcinit .naf) = 0x00000020 ∧ encode (.rcinit .bin) = 0x00004020 ∧
    ∀ (s : State) (m : Coding),
      (s.ecKbits.toNat ≤ 576 →
        let seq := recode (s.ecK.toNat % 2 ^ s.ecKbits.toNat) m
        exec (.rcinit m) s = .next { onlyStatus s .ok with
          cur := { mode := m, seq := seq }, rcCount := BitVec.ofNat 10 seq.length
          rcRemain := BitVec.ofNat 10 seq.length })
      ∧ (576 < s.ecKbits.toNat → exec (.rcinit m) s = .next (onlyStatus s .param))

/-- The properties of the recodings (R245): value, non-adjacency, length, leading digit, the empty sequence of 0, and
the longest sequence; the symbol of each digit (R241) and the code RC_SYM reads for each symbol (R244, R53). -/
def Obligations.RecodingsAreSound : Prop :=
  (binDigits 0 = [] ∧ nafDigits 0 = []) ∧ (∀ v l : Nat, 2 ^ l ≤ v → v < 2 ^ (l + 1) →
    digitsValue (binDigits v) = v ∧ digitsValue (nafDigits v) = v
    ∧ (∀ d ∈ binDigits v, d = 0 ∨ d = 1) ∧ (∀ d ∈ nafDigits v, d = -1 ∨ d = 0 ∨ d = 1)
    ∧ (∀ i, (nafDigits v).getD i 0 = 0 ∨ (nafDigits v).getD (i + 1) 0 = 0)
    ∧ (binDigits v).length = l + 1 ∧ ((nafDigits v).length = l + 1 ∨ (nafDigits v).length = l + 2)
    ∧ (binDigits v).head? = some 1 ∧ (nafDigits v).head? = some 1
    ∧ ∀ m, (recode v m).head? = some .high)
  ∧ (∀ v m, v < 2 ^ 576 → (recode v m).length ≤ 577) ∧ (recode (2 ^ 576 - 1) .naf).length = 577
  ∧ (∀ (v : Nat) (m : Coding), recode v m =
      (match m with
        | .bin => binDigits v
        | .naf => nafDigits v).map fun z => if z = 0 then Symbol.low else if z = 1 then .high else .minusOne)
  ∧ ∀ s : State, s.busy = false → (s.hostRead 0x080 4).rdata =
      match s.rcSym with
      | .low => 0b00
      | .high => 0b01
      | .scaDummy => 0b10
      | .minusOne => 0b11

/-- RCPULL (R242). -/
def Obligations.RcpullPullsTheHead : Prop :=
  encode .rcpull = 0x00000021 ∧ ∀ s : State,
    (∀ y rest, s.cur.seq = y :: rest → exec .rcpull s = .next { onlyStatus s .ok with
      cur := { s.cur with seq := rest }, rcSym := y, rcRemain := BitVec.ofNat 10 rest.length })
    ∧ (s.cur.seq = [] → exec .rcpull s = .next (onlyStatus s .rcempty))

/-- After an RCINIT, the k-th RCPULL returns the k-th symbol of the recoding, and the one after the last returns
RCEMPTY (R240, R242). -/
def Obligations.PullsReturnTheRecoding : Prop :=
  ∀ (s : State) (m : Coding), s.ecKbits.toNat ≤ 576 →
    let seq := recode (s.ecK.toNat % 2 ^ s.ecKbits.toNat) m
    ∃ t, exec (.rcinit m) s = .next t
      ∧ (∀ k (h : k < seq.length), ∃ u, pullTimes (k + 1) t = .next u ∧ u.status.errcode = .ok
          ∧ u.rcSym = seq[k] ∧ u.rcRemain.toNat = seq.length - (k + 1))
      ∧ ∃ u, pullTimes (seq.length + 1) t = .next u ∧ u.status.errcode = .rcempty ∧ u.cur.seq = []

/-! ### Points -/

/-- ECDBL (R262, R263): the identity, the tangent when 2y has the inverse `u`, and the defined value with NOINV when it
has none; only PT[d] is written. -/
def Obligations.EcdblDoublesThePoint : Prop :=
  ∀ (s : State) (rd rs1 : Fin 4), 
    encode (.ecdbl rd rs1) = BitVec.ofNat 32 (0x30 + 256 * rd + 1024 * rs1) ∧
    (s.ecP.toNat < 3 → exec (.ecdbl rd rs1) s = .next (onlyStatus s .param)) ∧
    (3 ≤ s.ecP.toNat →
      let p : Int := s.ecP.toNat
      let a : Int := s.ecA.toNat % p
      let x : Int := (s.pt[rs1]).x.toNat % p
      let y : Int := (s.pt[rs1]).y.toNat % p
      let writes := fun (code : ErrCode) (x' y' : Int) =>
        ({ onlyStatus s code with pt := s.pt.set rd ⟨BitVec.ofInt 576 x', BitVec.ofInt 576 y'⟩ } : State)
      (x = 0 ∧ y = 0 → exec (.ecdbl rd rs1) s = .next (writes .ok 0 0))
      ∧ (¬ (x = 0 ∧ y = 0) → ∀ u : Int, 0 ≤ u → u < p → u * (2 * y) % p = 1 →
          let lam := (3 * x ^ 2 + a) * u % p
          let x' := (lam ^ 2 - 2 * x) % p
          exec (.ecdbl rd rs1) s = .next (writes .ok x' ((lam * (x - x') - y) % p)))
      ∧ (¬ (x = 0 ∧ y = 0) → Int.gcd (2 * y) p ≠ 1 →
          exec (.ecdbl rd rs1) s = .next (writes .noinv ((-(2 * x)) % p) ((-y) % p))))

/-- ECADD (R264, R265): the chord when xb − xa has the inverse `u`, and the defined value with NOINV when it has none;
only PT[d] is written. -/
def Obligations.EcaddAddsThePoints : Prop :=
  ∀ (s : State) (rd rs1 rs2 : Fin 4), 
    encode (.ecadd rd rs1 rs2) = BitVec.ofNat 32 (0x31 + 256 * rd + 1024 * rs1 + 4096 * rs2) ∧
    (s.ecP.toNat < 3 → exec (.ecadd rd rs1 rs2) s = .next (onlyStatus s .param)) ∧
    (3 ≤ s.ecP.toNat →
      let p : Int := s.ecP.toNat
      let xa : Int := (s.pt[rs1]).x.toNat % p
      let ya : Int := (s.pt[rs1]).y.toNat % p
      let xb : Int := (s.pt[rs2]).x.toNat % p
      let yb : Int := (s.pt[rs2]).y.toNat % p
      let writes := fun (code : ErrCode) (x' y' : Int) =>
        ({ onlyStatus s code with pt := s.pt.set rd ⟨BitVec.ofInt 576 x', BitVec.ofInt 576 y'⟩ } : State)
      (∀ u : Int, 0 ≤ u → u < p → u * (xb - xa) % p = 1 →
          let lam := (yb - ya) * u % p
          let x' := (lam ^ 2 - xa - xb) % p
          exec (.ecadd rd rs1 rs2) s = .next (writes .ok x' ((lam * (xa - x') - ya) % p)))
      ∧ (Int.gcd (xb - xa) p ≠ 1 →
          exec (.ecadd rd rs1 rs2) s = .next (writes .noinv ((-xa - xb) % p) ((-ya) % p))))

/-- ECMUL's corner cases (R268): scalar 0 writes the identity, scalar 1 the reduced base, both with OK and no other
arithmetic; scalar 2 writes what ECDBL writes, and reports NOINV exactly when that doubling does or the difference of
abscissas in the one dummy addition has no inverse. -/
def Obligations.EcmulOfSmallScalars : Prop :=
  ∀ (s : State) (rd rs1 : Fin 4) (m : Coding), 3 ≤ s.ecP.toNat → s.ecKbits.toNat ≤ 576 →
    let v := s.ecK.toNat % 2 ^ s.ecKbits.toNat
    (v = 0 → exec (.ecmul rd rs1 m) s = .next { onlyStatus s .ok with
        pt := s.pt.set rd ⟨0, 0⟩, cur := { mode := m, seq := [] }, rcCount := 0, rcRemain := 0 })
    ∧ (v = 1 → exec (.ecmul rd rs1 m) s = .next { onlyStatus s .ok with
        pt := s.pt.set rd ⟨BitVec.ofNat 576 ((s.pt[rs1]).x.toNat % s.ecP.toNat),
          BitVec.ofNat 576 ((s.pt[rs1]).y.toNat % s.ecP.toNat)⟩
        cur := { mode := m, seq := [] }, rcCount := 1, rcRemain := 0, rcSym := .high })
    ∧ (v = 2 → ∃ t u, exec (.ecmul rd rs1 m) s = .next t ∧ exec (.ecdbl rd rs1) s = .next u
        ∧ t = { u with
            status := { u.status with errcode := t.status.errcode }
            cur := { mode := m, seq := [] }, rcCount := 2, rcRemain := 0, rcSym := .low, dummy := t.dummy }
        ∧ t.status.errcode = if u.status.errcode = .noinv
              ∨ Int.gcd ((s.pt[rs1]).x.toNat - (u.pt[rd]).x.toNat) s.ecP.toNat ≠ 1 then .noinv else .ok)

/-- ECMUL (R243, R268, R270, R304): its word (R127). It completes whenever P ≥ 3 and KBITS ≤ 576, and writes PT[d], the
cursor and its registers, and DUMMY, and nothing else. PT[d], a reduced pair, and DUMMY are what the loop of R268 leaves
over the digits after the first, which sets the accumulator to the base (`DigitLoop`, Safety.lean); with no digits PT[d]
is the identity and DUMMY is not written. The code is NOINV exactly when an inverse is missing in some doubling or
addition of the loop, the dummy additions included, and PT[d] is the loop's value then too. -/
def Obligations.EcmulWritesOnlyItsResults : Prop :=
  ∀ (s : State) (rd rs1 : Fin 4) (m : Coding),
    encode (.ecmul rd rs1 m)
      = BitVec.ofNat 32 (0x32 + 256 * rd + 1024 * rs1 + if m = .bin then 16384 else 0) ∧
    (3 ≤ s.ecP.toNat → s.ecKbits.toNat ≤ 576 →
    let p : Int := s.ecP.toNat
    let a : Int := s.ecA.toNat % p
    let baseX : Int := (s.pt[rs1]).x.toNat % p
    let baseY : Int := (s.pt[rs1]).y.toNat % p
    let v := s.ecK.toNat % 2 ^ s.ecKbits.toNat
    let digits := match m with
      | .bin => binDigits v
      | .naf => nafDigits v
    ∃ (x y : Int) (d : Point) (missing : Bool),
      exec (.ecmul rd rs1 m) s = .next { onlyStatus s (if missing then .noinv else .ok) with
          pt := s.pt.set rd ⟨BitVec.ofInt 576 x, BitVec.ofInt 576 y⟩, cur := { mode := m, seq := [] }
          rcCount := BitVec.ofNat 10 digits.length, rcRemain := 0
          rcSym := (recode v m).getLastD s.rcSym, dummy := d }
      ∧ (0 ≤ x ∧ x < p ∧ 0 ≤ y ∧ y < p)
      ∧ match digits with
        | [] => x = 0 ∧ y = 0 ∧ d = s.dummy ∧ missing = false
        | _ :: rest => DigitLoop p a baseX baseY rest baseX baseY s.dummy x y d missing)

/-- The correctness law of ECMUL (R274): for a prime P and a base on a curve y² = x³ + a·x + b with b ≠ 0, a completion
with OK leaves the scalar's multiple of the base in PT[d], with (0, 0) for the identity. The base is a nonsingular
point, which is what the group of the curve is made of. -/
def Obligations.EcmulIsScalarMultiplication : Prop :=
  ∀ (p : Nat) (_ : Fact p.Prime) (s t : State) (rd rs1 : Fin 4) (m : Coding) (b : ZMod p),
    s.ecP.toNat = p → b ≠ 0 →
    ∀ hB : (shortCurve p (s.ecA.toNat : ZMod p) b).toAffine.Nonsingular
        ((s.pt[rs1]).x.toNat : ZMod p) ((s.pt[rs1]).y.toNat : ZMod p),
      exec (.ecmul rd rs1 m) s = .next t → t.status.errcode = .ok →
      match (s.ecK.toNat % 2 ^ s.ecKbits.toNat) •
          (WeierstrassCurve.Affine.Point.some _ _ hB :
            (shortCurve p (s.ecA.toNat : ZMod p) b).toAffine.Point) with
      | .zero => t.pt[rd] = ⟨0, 0⟩
      | .some x y _ => ((t.pt[rd]).x.toNat : ZMod p) = x ∧ ((t.pt[rd]).y.toNat : ZMod p) = y

/-- DUMMY is never read (R66, R278): a step from a state with another dummy point differs in the dummy point alone, a
step that stops stops in the same way, and no step is refused. -/
def Obligations.DummyPointIsNeverRead : Prop :=
  ∀ (s : State) (d : Point),
    (∀ t, step s = .next t → ∃ d', step (s.withDummy d) = .next (t.withDummy d'))
      ∧ (∀ r, step s = .fault r → step (s.withDummy d) = .fault r)
      ∧ ∀ r, step s ≠ .refused r

/-! ### Host transactions -/

/-- Invalid accesses (R97): a wrong size, a misaligned offset or an unmapped one sets BUSERR, reads 0 and writes nothing
else; a RES word of the control block or of the EC slots, in the idle block, reads 0, ignores the write and sets no
BUSERR. That an invalid read returns 0 also while BUSY = 1 is log entry 17 (DEDUCED, from R97, R101 and R102). -/
def Obligations.InvalidAccessesSetOnlyBuserr : Prop :=
  ∀ (s : State) (off size : Nat) (v : Word), off < 0x1C000 →
    ((size ≠ 4 ∨ off % 4 ≠ 0 ∨ (0x100 ≤ off ∧ off < 0x1000) ∨ (0x1600 ≤ off ∧ off < 0x10000)) →
      s.hostRead off size = { s with status := { s.status with buserr := true }, rdata := 0 }
        ∧ s.hostWrite off size v = { s with status := { s.status with buserr := true } })
    ∧ (s.busy = false → size = 4 → off % 4 = 0 →
      (off = 0x01C ∨ (0x084 ≤ off ∧ off < 0x100) ∨ (0x1180 ≤ off ∧ off < 0x1200)
        ∨ (0x1000 ≤ off ∧ off < 0x1600 ∧ 72 ≤ off % 128)) →
      s.hostRead off size = { s with rdata := 0 } ∧ s.hostWrite off size v = s)

/-- Writes while BUSY = 1 (R101): a valid one to any offset but STATUS is dropped and sets OVR; STATUS takes its write;
an invalid one does not set OVR. That a RES word is one of the valid offsets here is log entry 11 (DEDUCED, from R97). -/
def Obligations.WritesWhileBusyAreDropped : Prop :=
  ∀ (s : State) (off size : Nat) (v : Word), s.busy = true →
    (accessValid off size = true → off ≠ 0x00C →
      s.hostWrite off size v = { s with status := { s.status with ovr := true } })
    ∧ s.hostWrite 0x00C 4 v = { s with status := Status.writeOneToClear s.status v }
    ∧ (accessValid off size = false → (s.hostWrite off size v).status.ovr = s.status.ovr)

/-- Reads while BUSY = 1 (R102): ID, CAPS, CTRL, STATUS and CMD read as when idle; any other mapped word gives the next
free value (log entry 6). Neither changes anything but the port's read data and the count of free values. -/
def Obligations.ReadsWhileBusy : Prop :=
  ∀ (s : State) (off : Nat), s.busy = true →
    (s.hostRead 0x000 4 = { s with rdata := 0x4C534301 } ∧ s.hostRead 0x004 4 = { s with rdata := 0x0000944A }
      ∧ s.hostRead 0x008 4 = { s with rdata := s.ctrl.toWord } ∧ s.hostRead 0x00C 4 = { s with rdata := s.statusWord }
      ∧ s.hostRead 0x010 4 = { s with rdata := s.cmd })
    ∧ (accessValid off 4 = true → 0x014 ≤ off →
      s.hostRead off 4 = { s with rdata := Config.busyRead s.draws, draws := s.draws + 1 })

/-- Acceptance (R150): a CMD write while BUSY = 0 sets CMD, PEND and BUSY and clears DONE, whatever the word; while
BUSY = 1 it is dropped and sets OVR. -/
def Obligations.CmdWriteIsAccepted : Prop :=
  ∀ (s : State) (v : Word),
    (s.busy = false → s.hostWrite 0x010 4 v =
      { s with cmd := v, pend := some v, status := { s.status with done := false } })
    ∧ (s.busy = true → s.hostWrite 0x010 4 v = { s with status := { s.status with ovr := true } })

/-- A write to STATUS (R35): ones clear DONE, OVR and BUSERR, zeros leave them, and nothing else changes; the word read
has the fields where R35 puts them, with the numbers of R300 for the codes. -/
def Obligations.StatusIsWriteOneToClear : Prop :=
  ∀ (s : State) (v : Word),
    s.hostWrite 0x00C 4 v = { s with status := { s.status with
        done := s.status.done && !v.getLsbD 1, ovr := s.status.ovr && !v.getLsbD 8
        buserr := s.status.buserr && !v.getLsbD 9 } }
    ∧ s.statusWord.getLsbD 0 = s.busy ∧ s.statusWord.getLsbD 1 = s.status.done
    ∧ s.statusWord.getLsbD 2 = decide (s.status.errcode ≠ .ok) ∧ s.statusWord.getLsbD 3 = s.status.pvalid
    ∧ (s.statusWord.extractLsb' 4 4).toNat = (match s.status.errcode with
        | .ok => 0
        | .illegal => 1
        | .param => 2
        | .noroot => 3
        | .noinv => 4
        | .rcempty => 5)
    ∧ s.statusWord.getLsbD 8 = s.status.ovr ∧ s.statusWord.getLsbD 9 = s.status.buserr
    ∧ s.statusWord.extractLsb' 10 22 = 0

/-- The PVALID rule for host writes (R56, R33): an accepted write to NTT_LOGN, NTT_Q or NTT_ROOT clears it, one to CTRL
clears it exactly when TIER changes, and no other write changes it. -/
def Obligations.ParameterWritesClearPvalid : Prop :=
  ∀ (s : State) (off size : Nat) (v : Word),
    (s.busy = false → off = 0x014 ∨ off = 0x020 ∨ off = 0x024 ∨ off = 0x028 ∨ off = 0x02C →
      (s.hostWrite off 4 v).status.pvalid = false)
    ∧ (s.busy = false → (s.hostWrite 0x008 4 v).status.pvalid
        = (s.status.pvalid && decide (v.extractLsb' 2 2 = s.ctrl.tier)))
    ∧ ((s.busy = true ∨ accessValid off size = false
        ∨ (off ≠ 0x008 ∧ off ≠ 0x014 ∧ off ≠ 0x020 ∧ off ≠ 0x024 ∧ off ≠ 0x028 ∧ off ≠ 0x02C)) →
      (s.hostWrite off size v).status.pvalid = s.status.pvalid)

/-- The banks as the host sees them (R57, R92, R95): in the idle block, whatever wrote the cell, the words at
0x10000 + 0x2000·b + 8·i and the next one read as the halves of cell i of Bank[b]. A written word reads back: writing
one changes nothing but its four bytes, the word read is the word written, and a cell's two words make up the cell. -/
def Obligations.BankWordsReadBack : Prop :=
  (∀ (s : State) (b : Fin 4) (i : Nat), s.busy = false → i < 1024 →
    s.ReadsAs (0x10000 + 0x2000 * b.val + 8 * i) (s.cellAt (bankBase b) i))
  ∧ ∀ (s : State) (off : Nat) (v : Word), s.busy = false → 0x10000 ≤ off → off < 0x18000 → off % 4 = 0 →
    s.hostWrite off 4 v = { s with mem := (s.hostWrite off 4 v).mem }
    ∧ ((s.hostWrite off 4 v).hostRead off 4).rdata = v
    ∧ (∀ a, a < off ∨ off + 4 ≤ a → (s.hostWrite off 4 v).byteAt a = s.byteAt a)
    ∧ ∀ (b : Fin 4) (i : Nat) (lo hi : Word), i < 1024 →
      ((s.hostWrite (0x10000 + 0x2000 * b.val + 8 * i) 4 lo).hostWrite
        (0x10000 + 0x2000 * b.val + 8 * i + 4) 4 hi).cellAt (bankBase b) i = hi ++ lo

/-- The EC slots (R64, R96, R100): which register stands behind each slot, word by word, that a write to a word changes
that word of that register and nothing else of the state, and that every word of the slots but the one written reads
as before. -/
def Obligations.EcWordsReadBack : Prop :=
  (∀ (s : State) (off off' : Nat) (v : Word), s.busy = false →
    0x1000 ≤ off → off < 0x1600 → off % 4 = 0 → off % 128 < 72 → ¬ (0x1180 ≤ off ∧ off < 0x1200) →
    0x1000 ≤ off' → off' < 0x1600 → off' % 4 = 0 →
    ((s.hostWrite off 4 v).hostRead off 4).rdata = v
    ∧ (off' ≠ off → ((s.hostWrite off 4 v).hostRead off' 4).rdata = (s.hostRead off' 4).rdata))
  ∧ ∀ (s : State) (j : Nat) (k : Fin 4) (v : Word), s.busy = false → j < 18 →
    (s.hostRead (0x1000 + 4 * j) 4 = { s with rdata := s.ecP.extractLsb' (32 * j) 32 }
      ∧ ∃ y, WordReplaced s.ecP y j v ∧ s.hostWrite (0x1000 + 4 * j) 4 v = { s with ecP := y })
    ∧ (s.hostRead (0x1080 + 4 * j) 4 = { s with rdata := s.ecA.extractLsb' (32 * j) 32 }
      ∧ ∃ y, WordReplaced s.ecA y j v ∧ s.hostWrite (0x1080 + 4 * j) 4 v = { s with ecA := y })
    ∧ (s.hostRead (0x1100 + 4 * j) 4 = { s with rdata := s.ecK.extractLsb' (32 * j) 32 }
      ∧ ∃ y, WordReplaced s.ecK y j v ∧ s.hostWrite (0x1100 + 4 * j) 4 v = { s with ecK := y })
    ∧ (s.hostRead (0x1200 + 0x100 * k.val + 4 * j) 4 = { s with rdata := (s.pt[k]).x.extractLsb' (32 * j) 32 }
      ∧ ∃ y, WordReplaced (s.pt[k]).x y j v
          ∧ s.hostWrite (0x1200 + 0x100 * k.val + 4 * j) 4 v = { s with pt := s.pt.set k ⟨y, (s.pt[k]).y⟩ })
    ∧ (s.hostRead (0x1280 + 0x100 * k.val + 4 * j) 4 = { s with rdata := (s.pt[k]).y.extractLsb' (32 * j) 32 }
      ∧ ∃ y, WordReplaced (s.pt[k]).y y j v
          ∧ s.hostWrite (0x1280 + 0x100 * k.val + 4 * j) 4 v = { s with pt := s.pt.set k ⟨(s.pt[k]).x, y⟩ })

/-- The control block of the idle block, register by register (R32–R34, R37–R53, R55, R92, R100): what a read of each
offset returns, what a write to each writable register stores, that one to a read-only register changes nothing, and
that two word writes make up a 64-bit register. STATUS and CMD's write are `StatusIsWriteOneToClear` and
`CmdWriteIsAccepted`; what `invqDouble` and `invqFloat` are is `ReciprocalsAreRoundedToNearest`, and RC_SYM's codes are
in `RecodingsAreSound`. -/
def Obligations.RegistersReadAndTakeTheirWrites : Prop :=
  ∀ (s : State) (v lo hi : Word), s.busy = false →
    let q := s.nttQ.toNat
    let k := if s.ctrl.tier = 3 then 0 else if s.ctrl.tier = 2 then 62 else 30
    let stale := { s.status with pvalid := false }
    (s.hostRead 0x000 4 = { s with rdata := 0x4C534301 } ∧ s.hostRead 0x004 4 = { s with rdata := 0x0000944A }
      ∧ (∃ w : Word, s.hostRead 0x008 4 = { s with rdata := w } ∧ w.extractLsb' 0 2 = s.ctrl.rmode
        ∧ w.extractLsb' 2 2 = s.ctrl.tier ∧ w.getLsbD 4 = s.ctrl.ie ∧ w.extractLsb' 5 27 = 0)
      ∧ s.hostRead 0x00C 4 = { s with rdata := s.statusWord } ∧ s.hostRead 0x010 4 = { s with rdata := s.cmd }
      ∧ s.hostRead 0x014 4 = { s with rdata := s.nttLogn.setWidth 32 }
      ∧ s.hostRead 0x018 4 = { s with rdata := BitVec.ofNat 32 k }
      ∧ s.ReadsAs 0x020 s.nttQ ∧ s.ReadsAs 0x028 s.nttRoot ∧ s.ReadsAs 0x030 s.nttRootinv ∧ s.ReadsAs 0x038 s.nttNinv
      ∧ s.ReadsAs 0x040 (if q = 0 ∨ s.ctrl.tier = 3 then 0 else BitVec.ofNat 64 (2 ^ k / q))
      ∧ s.ReadsAs 0x048 (invqDouble q) ∧ s.ReadsAs 0x050 s.mulnX ∧ s.ReadsAs 0x058 s.mulnY ∧ s.ReadsAs 0x060 s.mulnR
      ∧ s.ReadsAs 0x068 s.nttGen ∧ s.hostRead 0x070 4 = { s with rdata := invqFloat q }
      ∧ s.hostRead 0x074 4 = { s with rdata := s.ecKbits.setWidth 32 }
      ∧ s.hostRead 0x078 4 = { s with rdata := s.rcCount.setWidth 32 }
      ∧ s.hostRead 0x07C 4 = { s with rdata := s.rcRemain.setWidth 32 }
      ∧ ∃ w : Word, w.toNat ≤ 3 ∧ s.hostRead 0x080 4 = { s with rdata := w })
    ∧ (s.hostWrite 0x008 4 v = { s with
        ctrl := { rmode := v.extractLsb' 0 2, tier := v.extractLsb' 2 2, ie := v.getLsbD 4 }
        status := { s.status with pvalid := s.status.pvalid && decide (v.extractLsb' 2 2 = s.ctrl.tier) } }
      ∧ s.hostWrite 0x014 4 v = { s with nttLogn := v.extractLsb' 0 4, status := stale }
      ∧ s.hostWrite 0x020 4 v = { s with nttQ := s.nttQ.extractLsb' 32 32 ++ v, status := stale }
      ∧ s.hostWrite 0x024 4 v = { s with nttQ := v ++ s.nttQ.extractLsb' 0 32, status := stale }
      ∧ s.hostWrite 0x028 4 v = { s with nttRoot := s.nttRoot.extractLsb' 32 32 ++ v, status := stale }
      ∧ s.hostWrite 0x02C 4 v = { s with nttRoot := v ++ s.nttRoot.extractLsb' 0 32, status := stale }
      ∧ s.hostWrite 0x050 4 v = { s with mulnX := s.mulnX.extractLsb' 32 32 ++ v }
      ∧ s.hostWrite 0x054 4 v = { s with mulnX := v ++ s.mulnX.extractLsb' 0 32 }
      ∧ s.hostWrite 0x058 4 v = { s with mulnY := s.mulnY.extractLsb' 32 32 ++ v }
      ∧ s.hostWrite 0x05C 4 v = { s with mulnY := v ++ s.mulnY.extractLsb' 0 32 }
      ∧ s.hostWrite 0x074 4 v = { s with ecKbits := v.extractLsb' 0 10 })
    ∧ (∀ off ∈ [0x000, 0x004, 0x018, 0x030, 0x034, 0x038, 0x03C, 0x040, 0x044, 0x048, 0x04C, 0x060, 0x064, 0x068,
        0x06C, 0x070, 0x078, 0x07C, 0x080], s.hostWrite off 4 v = s)
    ∧ ((s.hostWrite 0x020 4 lo).hostWrite 0x024 4 hi).nttQ = hi ++ lo
    ∧ ((s.hostWrite 0x028 4 lo).hostWrite 0x02C 4 hi).nttRoot = hi ++ lo
    ∧ ((s.hostWrite 0x050 4 lo).hostWrite 0x054 4 hi).mulnX = hi ++ lo
    ∧ ((s.hostWrite 0x058 4 lo).hostWrite 0x05C 4 hi).mulnY = hi ++ lo

/-- The twiddle tables as the host sees them (R58, R95): in the idle block the words at 0x18000 + 8·i (FWD) and
0x1A000 + 8·i (INV) and the next ones read as the halves of cell i, and no host write changes a table. -/
def Obligations.TablesAreReadOnlyToTheHost : Prop :=
  (∀ (s : State) (i : Nat), s.busy = false → i < 1024 →
    s.ReadsAs (0x18000 + 8 * i) (s.cellAt (tableBase .fwd) i)
      ∧ s.ReadsAs (0x1A000 + 8 * i) (s.cellAt (tableBase .inv) i))
  ∧ ∀ (s : State) (off size : Nat) (v : Word) (a : Nat), 0x18000 ≤ a →
    (s.hostWrite off size v).byteAt a = s.byteAt a

/-- Reads have no side effects (R99): a read changes nothing but the port's read data, BUSERR for an invalid access and
the count of free values (log entry 6), and a valid read of the idle block is idempotent. -/
def Obligations.ReadsHaveNoSideEffects : Prop :=
  ∀ (s : State) (off size : Nat),
    (∃ (r : Word) (k : Nat), s.hostRead off size = { s with
      rdata := r, draws := k
      status := { s.status with buserr := s.status.buserr || !accessValid off size } })
    ∧ (accessValid off size = true → s.busy = false →
        (s.hostRead off size).hostRead off size = s.hostRead off size)

/-- INVQ_DBL and INVQ_FLT hold the binary64 and binary32 number nearest to 1/Q, to even on a tie (R45, R46). The layout
of the encodings is PRESUMED (log entry 15). With the encoding cut into exponent E and fraction F, the number is
(2^52 + F)·2^(E − 1075), and (2^23 + F)·2^(E − 150). Its error is at most half a unit of its last place; where it is a
power of two above 1/Q, the next number below is half a unit away, and the error is at most a quarter. -/
def Obligations.ReciprocalsAreRoundedToNearest : Prop :=
  invqDouble 0 = 0 ∧ invqFloat 0 = 0 ∧ ∀ q : Nat, 1 ≤ q → q < 2 ^ 64 →
    (let e : Nat := (invqDouble q).toNat / 2 ^ 52
     let f : Nat := 2 ^ 52 + (invqDouble q).toNat % 2 ^ 52
     let err : Int := 2 * |(f : Int) * (q : Int) - (2 : Int) ^ (1075 - e)|
     e ≤ 1023 ∧ err ≤ (q : Int) ∧ (err = (q : Int) → f % 2 = 0)
       ∧ (f = 2 ^ 52 → (2 : Int) ^ (1075 - e) < (f : Int) * (q : Int) → 2 * err ≤ (q : Int)))
    ∧ (let e : Nat := (invqFloat q).toNat / 2 ^ 23
       let f : Nat := 2 ^ 23 + (invqFloat q).toNat % 2 ^ 23
       let err : Int := 2 * |(f : Int) * (q : Int) - (2 : Int) ^ (150 - e)|
       e ≤ 127 ∧ err ≤ (q : Int) ∧ (err = (q : Int) → f % 2 = 0)
         ∧ (f = 2 ^ 23 → (2 : Int) ^ (150 - e) < (f : Int) * (q : Int) → 2 * err ≤ (q : Int)))

/-- The completion interrupt (R320): after any completion IRQ is IE; acceptance, a 1 written to DONE, a CTRL write with
IE = 0 and reset make it 0; setting IE while DONE = 1 raises it. -/
def Obligations.InterruptFollowsDoneAndIe : Prop :=
  (∀ s : State, s.irq = (s.status.done && s.ctrl.ie))
  ∧ (∀ (i : Instr) (s t : State), exec i s = .next t → t.irq = s.ctrl.ie)
  ∧ (∀ (s : State) (v : Word), (s.accept v).irq = false)
  ∧ (∀ (s : State) (v : Word), v.getLsbD 1 = true → (s.hostWrite 0x00C 4 v).irq = false)
  ∧ (∀ (s : State) (v : Word), s.busy = false →
      (s.hostWrite 0x008 4 v).irq = (s.status.done && v.getLsbD 4))
  ∧ ∀ s : State, s.onReset.irq = false

/-! ### Reset and invariants -/

/-- What the host reads directly after reset (R341, 95_test_vectors.md L2.12). -/
def Obligations.ResetValuesAsRead : Prop :=
  let rd := fun off : Nat => (State.reset.hostRead off 4).rdata
  rd 0x000 = 0x4C534301 ∧ rd 0x004 = 0x0000944A ∧ rd 0x008 = 0 ∧ rd 0x00C = 0 ∧ rd 0x010 = 0 ∧ rd 0x014 = 0
    ∧ rd 0x018 = 30 ∧ rd 0x020 = 0 ∧ rd 0x028 = 0 ∧ rd 0x030 = 0 ∧ rd 0x038 = 0 ∧ rd 0x040 = 0 ∧ rd 0x048 = 0
    ∧ rd 0x050 = 0 ∧ rd 0x058 = 0 ∧ rd 0x060 = 0 ∧ rd 0x068 = 0 ∧ rd 0x070 = 0 ∧ rd 0x074 = 0 ∧ rd 0x078 = 0
    ∧ rd 0x07C = 0 ∧ rd 0x080 = 0 ∧ State.reset.pend = none ∧ State.reset.irq = false
    ∧ State.reset.cur = { mode := .naf, seq := [] }

/-- A reset event puts every register of R341 at its reset value and drops the pending command, whatever the state
(R340, R343). -/
def Obligations.ResetEventResetsEveryRegister : Prop :=
  ∀ (s : State) (rest : List Event), s.inputs = Event.reset :: rest →
    ∃ t, step s = .next t ∧ t.ctrl = State.reset.ctrl ∧ t.status = State.reset.status ∧ t.cmd = 0 ∧ t.pend = none
      ∧ t.nttLogn = 0 ∧ t.nttQ = 0 ∧ t.nttRoot = 0 ∧ t.nttRootinv = 0 ∧ t.nttNinv = 0
      ∧ t.mulnX = 0 ∧ t.mulnY = 0 ∧ t.mulnR = 0 ∧ t.nttGen = 0 ∧ t.ecKbits = 0
      ∧ t.rcCount = 0 ∧ t.rcRemain = 0 ∧ t.rcSym = .low ∧ t.cur = { mode := .naf, seq := [] } ∧ t.inputs = rest

/-- The invariants hold at reset. -/
def Obligations.InvariantsHoldAtReset : Prop := ShapeOk State.reset ∧ PvalidSound State.reset

/-- Every step keeps the shape of the state: canonical RAM inside its range, DONE = 0 and CMD = PEND while BUSY,
RC_REMAIN the length of a cursor of at most DIGMAX symbols, IS_SCA_DUMMY never produced (R36, R65, R150, R249). -/
def Obligations.EveryStepKeepsTheShape : Prop := ∀ s t : State, ShapeOk s → step s = .next t → ShapeOk t

/-- Every step keeps PVALID sound: it is never 1 over constants or tables that are not those of the parameters
(R56, R59, R172). -/
def Obligations.EveryStepKeepsPvalidSound : Prop := ∀ s t : State, PvalidSound s → step s = .next t → PvalidSound t
end

