-- ==== Sys2Proof/Laws/Arith.lean ====
section
/-! SUPPORT. The small lemmas of the integer functions: residues, inverses, searches, signed cells. -/

namespace Sys2Proof.Machine

/-! ### Residues (R11) -/

theorem zmod_nonneg {m : Nat} (h : 0 < m) (z : Int) : 0 ≤ zmod m z := Int.emod_nonneg z (by omega)

theorem zmod_lt {m : Nat} (h : 0 < m) (z : Int) : zmod m z < m := Int.emod_lt_of_pos z (by omega)

theorem zmod_of_lt {m : Nat} {z : Int} (h0 : 0 ≤ z) (h : z < m) : zmod m z = z := Int.emod_eq_of_lt h0 h

@[simp] theorem zmod_zmod (m : Nat) (z : Int) : zmod m (zmod m z) = zmod m z := by simp [zmod]

theorem zmod_cast (m : Nat) (z : Int) : ((zmod m z : Int) : ZMod m) = (z : ZMod m) := by
  simp [zmod]

theorem zmod_eq_iff {m : Nat} (x y : Int) : zmod m x = zmod m y ↔ (x : ZMod m) = (y : ZMod m) := by
  rw [ZMod.intCast_eq_intCast_iff]; rfl

@[simp] theorem zmod_nat (m v : Nat) : zmod m (v : Int) = ((v % m : Nat) : Int) := by simp [zmod]

/-! ### The extended Euclidean algorithm (R159) and the inverse (R156) -/

/-- With enough passes the loop ends at the gcd, and both coefficient pairs keep their meaning. -/
theorem xgcdLoop_spec (a m : Int) (fuel r0 r1 : Nat) (s0 s1 t0 t1 : Int) (hf : r1 < fuel)
    (h0 : s0 * a + t0 * m = r0) (h1 : s1 * a + t1 * m = r1) :
    (xgcdLoop fuel r0 r1 s0 s1 t0 t1).1 = Nat.gcd r0 r1 ∧
      (xgcdLoop fuel r0 r1 s0 s1 t0 t1).2.1 * a + (xgcdLoop fuel r0 r1 s0 s1 t0 t1).2.2 * m = Nat.gcd r0 r1 := by
  induction fuel generalizing r0 r1 s0 s1 t0 t1 with
  | zero => omega
  | succ fuel ih =>
    rw [xgcdLoop]
    split
    · next h => subst h; simpa using h0
    · next h =>
      have hlt := Nat.mod_lt r0 (Nat.pos_of_ne_zero h)
      have step := ih r1 (r0 % r1) s1 (s0 - (r0 / r1 : Nat) * s1) t1 (t0 - (r0 / r1 : Nat) * t1) (by omega) h1 (by
        have : (r0 : Int) = r1 * (r0 / r1 : Nat) + (r0 % r1 : Nat) := by exact_mod_cast (Nat.div_add_mod r0 r1).symm
        linear_combination h0 - ((r0 / r1 : Nat) : Int) * h1 + this)
      have hg : Nat.gcd r1 (r0 % r1) = Nat.gcd r0 r1 := by
        rw [Nat.gcd_comm r0 r1, Nat.gcd_rec r1 r0, Nat.gcd_comm]
      rwa [hg] at step

theorem xgcd_spec (a m : Nat) :
    (xgcd a m).1 = Nat.gcd a m ∧ (xgcd a m).2.1 * a + (xgcd a m).2.2 * m = Nat.gcd a m :=
  xgcdLoop_spec a m (m + 1) a m 1 0 0 1 (by omega) (by ring) (by ring)

/-- Everything `invMod?` can answer. -/
theorem invMod?_cases (m : Nat) (v : Int) (hm : 2 ≤ m) :
    (Nat.gcd (zmod m v).toNat m ≠ 1 ∧ invMod? m v = none) ∨
      (Nat.gcd (zmod m v).toNat m = 1 ∧ ∃ u, invMod? m v = some u ∧ 1 ≤ u ∧ u < m ∧ zmod m (u * v) = 1) := by
  obtain ⟨hg, hb⟩ := xgcd_spec (zmod m v).toNat m
  rw [← hg]
  rcases hx : xgcd (zmod m v).toNat m with ⟨g, s, t⟩
  rw [hx] at hg hb
  simp only at hg hb ⊢
  by_cases h : g = 1
  · right
    have unit : zmod m (zmod m s * v) = 1 := by
      have h1 : zmod m (1 : Int) = 1 := zmod_of_lt (by omega) (by omega)
      rw [← h1, zmod_eq_iff]
      have hv : (((zmod m v).toNat : Nat) : Int) = zmod m v := Int.toNat_of_nonneg (zmod_nonneg (by omega) v)
      have := congrArg (fun z : Int => (z : ZMod m)) hb
      rw [hv, ← hg, h] at this
      push_cast at this
      rw [zmod_cast] at this
      push_cast
      rw [zmod_cast]
      simpa using this
    refine ⟨h, zmod m s, by simp [invMod?, hx, h], ?_, zmod_lt (by omega) s, unit⟩
    have := zmod_nonneg (m := m) (by omega) s
    rcases lt_or_eq_of_le this with h0 | h0
    · omega
    · rw [← h0] at unit
      simp [zmod] at unit
  · exact .inl ⟨h, by simp [invMod?, hx, h]⟩

theorem invMod?_eq_none_iff {m : Nat} (hm : 2 ≤ m) (v : Int) :
    invMod? m v = none ↔ Nat.gcd (zmod m v).toNat m ≠ 1 := by
  rcases invMod?_cases m v hm with ⟨h, e⟩ | ⟨h, u, e, -⟩ <;> simp [h, e]

/-- The inverse is the only number of [0, m) whose product with `v` is 1 mod m (R156). -/
theorem invMod?_eq_some {m : Nat} (hm : 2 ≤ m) {v u : Int} (h0 : 0 ≤ u) (hu : u < m) (h : zmod m (u * v) = 1) :
    invMod? m v = some u := by
  have h1 : zmod m (1 : Int) = 1 := zmod_of_lt (by omega) (by omega)
  have hmul : (u : ZMod m) * (v : ZMod m) = 1 := by
    have := (zmod_eq_iff (m := m) (u * v) 1).mp (by rw [h, h1])
    push_cast at this; exact this
  rcases invMod?_cases m v hm with ⟨hg, -⟩ | ⟨-, w, e, hw1, hw2, hw⟩
  · exfalso
    apply hg
    have hz : (((zmod m v).toNat : Nat) : ZMod m) = (v : ZMod m) := by
      have : (((zmod m v).toNat : Nat) : Int) = zmod m v := Int.toNat_of_nonneg (zmod_nonneg (by omega) v)
      rw [← zmod_cast m v, ← this]; simp
    have : IsUnit (((zmod m v).toNat : Nat) : ZMod m) := by
      rw [hz]; exact IsUnit.of_mul_eq_one _ (by rw [mul_comm]; exact hmul)
    exact (ZMod.isUnit_iff_coprime _ _).mp this
  · have hw' : (w : ZMod m) * (v : ZMod m) = 1 := by
      have := (zmod_eq_iff (m := m) (w * v) 1).mp (by rw [hw, h1])
      push_cast at this; exact this
    have hwu : (w : ZMod m) = (u : ZMod m) := by
      calc (w : ZMod m) = w * (u * v) := by rw [hmul, mul_one]
        _ = u * (w * v) := by ring
        _ = u := by rw [hw', mul_one]
    have := (zmod_eq_iff (m := m) w u).mpr hwu
    rw [zmod_of_lt (by omega) hw2, zmod_of_lt h0 hu] at this
    rw [e, this]

/-- Inverse idempotence (R287): where x has an inverse mod m, the inverse of that inverse is x mod m. -/
theorem invMod?_invMod? {m : Nat} (hm : 2 ≤ m) (x : Int) (hx : Int.gcd x m = 1) :
    (invMod? m x).bind (invMod? m) = some (zmod m x) := by
  have hg : Nat.gcd (zmod m x).toNat m = 1 := by
    have h0 : (((zmod m x).toNat : Nat) : Int) = x % (m : Int) := Int.toNat_of_nonneg (zmod_nonneg (by omega) x)
    rw [← Int.gcd_natCast_natCast, h0, Int.gcd_emod]
    exact hx
  rcases invMod?_cases m x hm with ⟨h, -⟩ | ⟨-, u, e, -, -, hu⟩
  · exact absurd hg h
  · rw [e, Option.bind_some]
    refine invMod?_eq_some hm (zmod_nonneg (by omega) x) (zmod_lt (by omega) x) ?_
    rw [← hu, zmod_eq_iff, Int.cast_mul, zmod_cast, Int.cast_mul, mul_comm]

/-! ### Ascending searches (R168, R170) -/

theorem firstFrom_eq_some_iff (p : Nat → Bool) (count start k : Nat) :
    firstFrom p count start = some k ↔
      start ≤ k ∧ k < start + count ∧ p k = true ∧ ∀ j, start ≤ j → j < k → p j = false := by
  induction count generalizing start with
  | zero => simp [firstFrom]; omega
  | succ count ih =>
    rw [firstFrom]
    by_cases h : p start = true
    · rw [if_pos h, Option.some_inj]
      constructor
      · rintro rfl; exact ⟨le_rfl, by omega, h, fun j h1 h2 => absurd h1 (by omega)⟩
      · rintro ⟨h1, -, -, h4⟩
        rcases Nat.lt_or_ge start k with hk | hk
        · simp [h4 start le_rfl hk] at h
        · omega
    · rw [if_neg h, ih]
      constructor
      · rintro ⟨h1, h2, h3, h4⟩
        refine ⟨by omega, by omega, h3, fun j hj1 hj2 => ?_⟩
        rcases Nat.eq_or_lt_of_le hj1 with rfl | hj
        · simpa using h
        · exact h4 j (by omega) hj2
      · rintro ⟨h1, h2, h3, h4⟩
        refine ⟨?_, by omega, h3, fun j hj1 hj2 => h4 j (by omega) hj2⟩
        rcases Nat.eq_or_lt_of_le h1 with rfl | hj
        · exact absurd h3 h
        · omega

theorem firstFrom_eq_none_iff (p : Nat → Bool) (count start : Nat) :
    firstFrom p count start = none ↔ ∀ j, start ≤ j → j < start + count → p j = false := by
  induction count generalizing start with
  | zero => simp [firstFrom]; intros; omega
  | succ count ih =>
    rw [firstFrom]
    by_cases h : p start = true
    · rw [if_pos h]
      simp only [reduceCtorEq, false_iff]
      intro hall
      simp [hall start le_rfl (by omega)] at h
    · rw [if_neg h, ih]
      constructor
      · intro hall j h1 h2
        rcases Nat.eq_or_lt_of_le h1 with rfl | hj
        · simpa using h
        · exact hall j (by omega) (by omega)
      · intro hall j h1 h2
        exact hall j (by omega) (by omega)

/-! ### Signed cells (R10, R57) -/

/-- A W-bit signed value written to a cell is read back. -/
theorem sint_sext64 {w : Nat} (hw : 0 < w) (hw64 : w ≤ 64) {z : Int} (h1 : -2 ^ (w - 1) ≤ z) (h2 : z < 2 ^ (w - 1)) :
    sint w (sext64 z) = z := by
  have hpos : (0 : Int) < 2 ^ (w - 1) := by positivity
  have hsplit : ((2 ^ w : Nat) : Int) = 2 * 2 ^ (w - 1) := by
    push_cast; rw [← pow_succ']; congr 1; omega
  have hdvd : ((2 ^ w : Nat) : Int) ∣ ((2 ^ 64 : Nat) : Int) := by
    exact_mod_cast Nat.pow_dvd_pow 2 hw64
  rw [sint, sext64, BitVec.toInt_setWidth, BitVec.toNat_ofInt,
    Int.toNat_of_nonneg (Int.emod_nonneg z (by norm_num)), Int.bmod_def, Int.emod_emod_of_dvd z hdvd, hsplit]
  generalize hk : (2 : Int) ^ (w - 1) = k at *
  rcases Int.lt_or_le z 0 with hz | hz
  · have : z % (2 * k) = z + 2 * k := by
      rw [← Int.add_emod_right]; exact Int.emod_eq_of_lt (by omega) (by omega)
    rw [this]; split <;> omega
  · rw [Int.emod_eq_of_lt hz (by omega)]; split <;> omega

end Sys2Proof.Machine
end

