-- ==== Sys2Proof/Laws/State.lean ====
section
/-! SUPPORT. Each update of State, field by field: what it writes and what it leaves. All hold by unfolding one record
update, so later proofs need not unfold one. -/

namespace Sys2Proof.Machine

/-! ### PVALID ← v (R56). -/

@[simp] theorem State.setPvalid_ctrl (s : State) (v : Bool) : (s.setPvalid v).ctrl = s.ctrl := rfl
@[simp] theorem State.setPvalid_status (s : State) (v : Bool) :
    (s.setPvalid v).status = { s.status with pvalid := v } := rfl
@[simp] theorem State.setPvalid_cmd (s : State) (v : Bool) : (s.setPvalid v).cmd = s.cmd := rfl
@[simp] theorem State.setPvalid_pend (s : State) (v : Bool) : (s.setPvalid v).pend = s.pend := rfl
@[simp] theorem State.setPvalid_nttLogn (s : State) (v : Bool) : (s.setPvalid v).nttLogn = s.nttLogn := rfl
@[simp] theorem State.setPvalid_nttQ (s : State) (v : Bool) : (s.setPvalid v).nttQ = s.nttQ := rfl
@[simp] theorem State.setPvalid_nttRoot (s : State) (v : Bool) : (s.setPvalid v).nttRoot = s.nttRoot := rfl
@[simp] theorem State.setPvalid_nttRootinv (s : State) (v : Bool) : (s.setPvalid v).nttRootinv = s.nttRootinv := rfl
@[simp] theorem State.setPvalid_nttNinv (s : State) (v : Bool) : (s.setPvalid v).nttNinv = s.nttNinv := rfl
@[simp] theorem State.setPvalid_mulnX (s : State) (v : Bool) : (s.setPvalid v).mulnX = s.mulnX := rfl
@[simp] theorem State.setPvalid_mulnY (s : State) (v : Bool) : (s.setPvalid v).mulnY = s.mulnY := rfl
@[simp] theorem State.setPvalid_mulnR (s : State) (v : Bool) : (s.setPvalid v).mulnR = s.mulnR := rfl
@[simp] theorem State.setPvalid_nttGen (s : State) (v : Bool) : (s.setPvalid v).nttGen = s.nttGen := rfl
@[simp] theorem State.setPvalid_ecKbits (s : State) (v : Bool) : (s.setPvalid v).ecKbits = s.ecKbits := rfl
@[simp] theorem State.setPvalid_rcCount (s : State) (v : Bool) : (s.setPvalid v).rcCount = s.rcCount := rfl
@[simp] theorem State.setPvalid_rcRemain (s : State) (v : Bool) : (s.setPvalid v).rcRemain = s.rcRemain := rfl
@[simp] theorem State.setPvalid_rcSym (s : State) (v : Bool) : (s.setPvalid v).rcSym = s.rcSym := rfl
@[simp] theorem State.setPvalid_cur (s : State) (v : Bool) : (s.setPvalid v).cur = s.cur := rfl
@[simp] theorem State.setPvalid_ecP (s : State) (v : Bool) : (s.setPvalid v).ecP = s.ecP := rfl
@[simp] theorem State.setPvalid_ecA (s : State) (v : Bool) : (s.setPvalid v).ecA = s.ecA := rfl
@[simp] theorem State.setPvalid_ecK (s : State) (v : Bool) : (s.setPvalid v).ecK = s.ecK := rfl
@[simp] theorem State.setPvalid_pt (s : State) (v : Bool) : (s.setPvalid v).pt = s.pt := rfl
@[simp] theorem State.setPvalid_dummy (s : State) (v : Bool) : (s.setPvalid v).dummy = s.dummy := rfl
@[simp] theorem State.setPvalid_mem (s : State) (v : Bool) : (s.setPvalid v).mem = s.mem := rfl
@[simp] theorem State.setPvalid_rdata (s : State) (v : Bool) : (s.setPvalid v).rdata = s.rdata := rfl
@[simp] theorem State.setPvalid_inputs (s : State) (v : Bool) : (s.setPvalid v).inputs = s.inputs := rfl
@[simp] theorem State.setPvalid_epoch (s : State) (v : Bool) : (s.setPvalid v).epoch = s.epoch := rfl
@[simp] theorem State.setPvalid_draws (s : State) (v : Bool) : (s.setPvalid v).draws = s.draws := rfl

/-! ### BUSERR ← 1 (R97). -/

@[simp] theorem State.setBuserr_ctrl (s : State) : (s.setBuserr).ctrl = s.ctrl := rfl
@[simp] theorem State.setBuserr_status (s : State) : (s.setBuserr).status = { s.status with buserr := true } := rfl
@[simp] theorem State.setBuserr_cmd (s : State) : (s.setBuserr).cmd = s.cmd := rfl
@[simp] theorem State.setBuserr_pend (s : State) : (s.setBuserr).pend = s.pend := rfl
@[simp] theorem State.setBuserr_nttLogn (s : State) : (s.setBuserr).nttLogn = s.nttLogn := rfl
@[simp] theorem State.setBuserr_nttQ (s : State) : (s.setBuserr).nttQ = s.nttQ := rfl
@[simp] theorem State.setBuserr_nttRoot (s : State) : (s.setBuserr).nttRoot = s.nttRoot := rfl
@[simp] theorem State.setBuserr_nttRootinv (s : State) : (s.setBuserr).nttRootinv = s.nttRootinv := rfl
@[simp] theorem State.setBuserr_nttNinv (s : State) : (s.setBuserr).nttNinv = s.nttNinv := rfl
@[simp] theorem State.setBuserr_mulnX (s : State) : (s.setBuserr).mulnX = s.mulnX := rfl
@[simp] theorem State.setBuserr_mulnY (s : State) : (s.setBuserr).mulnY = s.mulnY := rfl
@[simp] theorem State.setBuserr_mulnR (s : State) : (s.setBuserr).mulnR = s.mulnR := rfl
@[simp] theorem State.setBuserr_nttGen (s : State) : (s.setBuserr).nttGen = s.nttGen := rfl
@[simp] theorem State.setBuserr_ecKbits (s : State) : (s.setBuserr).ecKbits = s.ecKbits := rfl
@[simp] theorem State.setBuserr_rcCount (s : State) : (s.setBuserr).rcCount = s.rcCount := rfl
@[simp] theorem State.setBuserr_rcRemain (s : State) : (s.setBuserr).rcRemain = s.rcRemain := rfl
@[simp] theorem State.setBuserr_rcSym (s : State) : (s.setBuserr).rcSym = s.rcSym := rfl
@[simp] theorem State.setBuserr_cur (s : State) : (s.setBuserr).cur = s.cur := rfl
@[simp] theorem State.setBuserr_ecP (s : State) : (s.setBuserr).ecP = s.ecP := rfl
@[simp] theorem State.setBuserr_ecA (s : State) : (s.setBuserr).ecA = s.ecA := rfl
@[simp] theorem State.setBuserr_ecK (s : State) : (s.setBuserr).ecK = s.ecK := rfl
@[simp] theorem State.setBuserr_pt (s : State) : (s.setBuserr).pt = s.pt := rfl
@[simp] theorem State.setBuserr_dummy (s : State) : (s.setBuserr).dummy = s.dummy := rfl
@[simp] theorem State.setBuserr_mem (s : State) : (s.setBuserr).mem = s.mem := rfl
@[simp] theorem State.setBuserr_rdata (s : State) : (s.setBuserr).rdata = s.rdata := rfl
@[simp] theorem State.setBuserr_inputs (s : State) : (s.setBuserr).inputs = s.inputs := rfl
@[simp] theorem State.setBuserr_epoch (s : State) : (s.setBuserr).epoch = s.epoch := rfl
@[simp] theorem State.setBuserr_draws (s : State) : (s.setBuserr).draws = s.draws := rfl

/-! ### OVR ← 1 (R101). -/

@[simp] theorem State.setOvr_ctrl (s : State) : (s.setOvr).ctrl = s.ctrl := rfl
@[simp] theorem State.setOvr_status (s : State) : (s.setOvr).status = { s.status with ovr := true } := rfl
@[simp] theorem State.setOvr_cmd (s : State) : (s.setOvr).cmd = s.cmd := rfl
@[simp] theorem State.setOvr_pend (s : State) : (s.setOvr).pend = s.pend := rfl
@[simp] theorem State.setOvr_nttLogn (s : State) : (s.setOvr).nttLogn = s.nttLogn := rfl
@[simp] theorem State.setOvr_nttQ (s : State) : (s.setOvr).nttQ = s.nttQ := rfl
@[simp] theorem State.setOvr_nttRoot (s : State) : (s.setOvr).nttRoot = s.nttRoot := rfl
@[simp] theorem State.setOvr_nttRootinv (s : State) : (s.setOvr).nttRootinv = s.nttRootinv := rfl
@[simp] theorem State.setOvr_nttNinv (s : State) : (s.setOvr).nttNinv = s.nttNinv := rfl
@[simp] theorem State.setOvr_mulnX (s : State) : (s.setOvr).mulnX = s.mulnX := rfl
@[simp] theorem State.setOvr_mulnY (s : State) : (s.setOvr).mulnY = s.mulnY := rfl
@[simp] theorem State.setOvr_mulnR (s : State) : (s.setOvr).mulnR = s.mulnR := rfl
@[simp] theorem State.setOvr_nttGen (s : State) : (s.setOvr).nttGen = s.nttGen := rfl
@[simp] theorem State.setOvr_ecKbits (s : State) : (s.setOvr).ecKbits = s.ecKbits := rfl
@[simp] theorem State.setOvr_rcCount (s : State) : (s.setOvr).rcCount = s.rcCount := rfl
@[simp] theorem State.setOvr_rcRemain (s : State) : (s.setOvr).rcRemain = s.rcRemain := rfl
@[simp] theorem State.setOvr_rcSym (s : State) : (s.setOvr).rcSym = s.rcSym := rfl
@[simp] theorem State.setOvr_cur (s : State) : (s.setOvr).cur = s.cur := rfl
@[simp] theorem State.setOvr_ecP (s : State) : (s.setOvr).ecP = s.ecP := rfl
@[simp] theorem State.setOvr_ecA (s : State) : (s.setOvr).ecA = s.ecA := rfl
@[simp] theorem State.setOvr_ecK (s : State) : (s.setOvr).ecK = s.ecK := rfl
@[simp] theorem State.setOvr_pt (s : State) : (s.setOvr).pt = s.pt := rfl
@[simp] theorem State.setOvr_dummy (s : State) : (s.setOvr).dummy = s.dummy := rfl
@[simp] theorem State.setOvr_mem (s : State) : (s.setOvr).mem = s.mem := rfl
@[simp] theorem State.setOvr_rdata (s : State) : (s.setOvr).rdata = s.rdata := rfl
@[simp] theorem State.setOvr_inputs (s : State) : (s.setOvr).inputs = s.inputs := rfl
@[simp] theorem State.setOvr_epoch (s : State) : (s.setOvr).epoch = s.epoch := rfl
@[simp] theorem State.setOvr_draws (s : State) : (s.setOvr).draws = s.draws := rfl

/-! ### Acceptance (R150). -/

@[simp] theorem State.accept_ctrl (s : State) (w : Word) : (s.accept w).ctrl = s.ctrl := rfl
@[simp] theorem State.accept_status (s : State) (w : Word) :
    (s.accept w).status = { s.status with done := false } := rfl
@[simp] theorem State.accept_cmd (s : State) (w : Word) : (s.accept w).cmd = w := rfl
@[simp] theorem State.accept_pend (s : State) (w : Word) : (s.accept w).pend = some w := rfl
@[simp] theorem State.accept_nttLogn (s : State) (w : Word) : (s.accept w).nttLogn = s.nttLogn := rfl
@[simp] theorem State.accept_nttQ (s : State) (w : Word) : (s.accept w).nttQ = s.nttQ := rfl
@[simp] theorem State.accept_nttRoot (s : State) (w : Word) : (s.accept w).nttRoot = s.nttRoot := rfl
@[simp] theorem State.accept_nttRootinv (s : State) (w : Word) : (s.accept w).nttRootinv = s.nttRootinv := rfl
@[simp] theorem State.accept_nttNinv (s : State) (w : Word) : (s.accept w).nttNinv = s.nttNinv := rfl
@[simp] theorem State.accept_mulnX (s : State) (w : Word) : (s.accept w).mulnX = s.mulnX := rfl
@[simp] theorem State.accept_mulnY (s : State) (w : Word) : (s.accept w).mulnY = s.mulnY := rfl
@[simp] theorem State.accept_mulnR (s : State) (w : Word) : (s.accept w).mulnR = s.mulnR := rfl
@[simp] theorem State.accept_nttGen (s : State) (w : Word) : (s.accept w).nttGen = s.nttGen := rfl
@[simp] theorem State.accept_ecKbits (s : State) (w : Word) : (s.accept w).ecKbits = s.ecKbits := rfl
@[simp] theorem State.accept_rcCount (s : State) (w : Word) : (s.accept w).rcCount = s.rcCount := rfl
@[simp] theorem State.accept_rcRemain (s : State) (w : Word) : (s.accept w).rcRemain = s.rcRemain := rfl
@[simp] theorem State.accept_rcSym (s : State) (w : Word) : (s.accept w).rcSym = s.rcSym := rfl
@[simp] theorem State.accept_cur (s : State) (w : Word) : (s.accept w).cur = s.cur := rfl
@[simp] theorem State.accept_ecP (s : State) (w : Word) : (s.accept w).ecP = s.ecP := rfl
@[simp] theorem State.accept_ecA (s : State) (w : Word) : (s.accept w).ecA = s.ecA := rfl
@[simp] theorem State.accept_ecK (s : State) (w : Word) : (s.accept w).ecK = s.ecK := rfl
@[simp] theorem State.accept_pt (s : State) (w : Word) : (s.accept w).pt = s.pt := rfl
@[simp] theorem State.accept_dummy (s : State) (w : Word) : (s.accept w).dummy = s.dummy := rfl
@[simp] theorem State.accept_mem (s : State) (w : Word) : (s.accept w).mem = s.mem := rfl
@[simp] theorem State.accept_rdata (s : State) (w : Word) : (s.accept w).rdata = s.rdata := rfl
@[simp] theorem State.accept_inputs (s : State) (w : Word) : (s.accept w).inputs = s.inputs := rfl
@[simp] theorem State.accept_epoch (s : State) (w : Word) : (s.accept w).epoch = s.epoch := rfl
@[simp] theorem State.accept_draws (s : State) (w : Word) : (s.accept w).draws = s.draws := rfl

/-! ### Completion (R151). -/

@[simp] theorem State.complete_ctrl (s : State) (c : ErrCode) : (s.complete c).ctrl = s.ctrl := rfl
@[simp] theorem State.complete_status (s : State) (c : ErrCode) :
    (s.complete c).status = { s.status with errcode := c, done := true } := rfl
@[simp] theorem State.complete_cmd (s : State) (c : ErrCode) : (s.complete c).cmd = s.cmd := rfl
@[simp] theorem State.complete_pend (s : State) (c : ErrCode) : (s.complete c).pend = none := rfl
@[simp] theorem State.complete_nttLogn (s : State) (c : ErrCode) : (s.complete c).nttLogn = s.nttLogn := rfl
@[simp] theorem State.complete_nttQ (s : State) (c : ErrCode) : (s.complete c).nttQ = s.nttQ := rfl
@[simp] theorem State.complete_nttRoot (s : State) (c : ErrCode) : (s.complete c).nttRoot = s.nttRoot := rfl
@[simp] theorem State.complete_nttRootinv (s : State) (c : ErrCode) : (s.complete c).nttRootinv = s.nttRootinv := rfl
@[simp] theorem State.complete_nttNinv (s : State) (c : ErrCode) : (s.complete c).nttNinv = s.nttNinv := rfl
@[simp] theorem State.complete_mulnX (s : State) (c : ErrCode) : (s.complete c).mulnX = s.mulnX := rfl
@[simp] theorem State.complete_mulnY (s : State) (c : ErrCode) : (s.complete c).mulnY = s.mulnY := rfl
@[simp] theorem State.complete_mulnR (s : State) (c : ErrCode) : (s.complete c).mulnR = s.mulnR := rfl
@[simp] theorem State.complete_nttGen (s : State) (c : ErrCode) : (s.complete c).nttGen = s.nttGen := rfl
@[simp] theorem State.complete_ecKbits (s : State) (c : ErrCode) : (s.complete c).ecKbits = s.ecKbits := rfl
@[simp] theorem State.complete_rcCount (s : State) (c : ErrCode) : (s.complete c).rcCount = s.rcCount := rfl
@[simp] theorem State.complete_rcRemain (s : State) (c : ErrCode) : (s.complete c).rcRemain = s.rcRemain := rfl
@[simp] theorem State.complete_rcSym (s : State) (c : ErrCode) : (s.complete c).rcSym = s.rcSym := rfl
@[simp] theorem State.complete_cur (s : State) (c : ErrCode) : (s.complete c).cur = s.cur := rfl
@[simp] theorem State.complete_ecP (s : State) (c : ErrCode) : (s.complete c).ecP = s.ecP := rfl
@[simp] theorem State.complete_ecA (s : State) (c : ErrCode) : (s.complete c).ecA = s.ecA := rfl
@[simp] theorem State.complete_ecK (s : State) (c : ErrCode) : (s.complete c).ecK = s.ecK := rfl
@[simp] theorem State.complete_pt (s : State) (c : ErrCode) : (s.complete c).pt = s.pt := rfl
@[simp] theorem State.complete_dummy (s : State) (c : ErrCode) : (s.complete c).dummy = s.dummy := rfl
@[simp] theorem State.complete_mem (s : State) (c : ErrCode) : (s.complete c).mem = s.mem := rfl
@[simp] theorem State.complete_rdata (s : State) (c : ErrCode) : (s.complete c).rdata = s.rdata := rfl
@[simp] theorem State.complete_inputs (s : State) (c : ErrCode) : (s.complete c).inputs = s.inputs := rfl
@[simp] theorem State.complete_epoch (s : State) (c : ErrCode) : (s.complete c).epoch = s.epoch := rfl
@[simp] theorem State.complete_draws (s : State) (c : ErrCode) : (s.complete c).draws = s.draws := rfl

/-! ### A store to the RAM. -/

@[simp] theorem State.storeBytes_ctrl (s : State) (a : Nat) (bs : List Byte) :
    (s.storeBytes a bs).ctrl = s.ctrl := rfl
@[simp] theorem State.storeBytes_status (s : State) (a : Nat) (bs : List Byte) :
    (s.storeBytes a bs).status = s.status := rfl
@[simp] theorem State.storeBytes_cmd (s : State) (a : Nat) (bs : List Byte) : (s.storeBytes a bs).cmd = s.cmd := rfl
@[simp] theorem State.storeBytes_pend (s : State) (a : Nat) (bs : List Byte) :
    (s.storeBytes a bs).pend = s.pend := rfl
@[simp] theorem State.storeBytes_nttLogn (s : State) (a : Nat) (bs : List Byte) :
    (s.storeBytes a bs).nttLogn = s.nttLogn := rfl
@[simp] theorem State.storeBytes_nttQ (s : State) (a : Nat) (bs : List Byte) :
    (s.storeBytes a bs).nttQ = s.nttQ := rfl
@[simp] theorem State.storeBytes_nttRoot (s : State) (a : Nat) (bs : List Byte) :
    (s.storeBytes a bs).nttRoot = s.nttRoot := rfl
@[simp] theorem State.storeBytes_nttRootinv (s : State) (a : Nat) (bs : List Byte) :
    (s.storeBytes a bs).nttRootinv = s.nttRootinv := rfl
@[simp] theorem State.storeBytes_nttNinv (s : State) (a : Nat) (bs : List Byte) :
    (s.storeBytes a bs).nttNinv = s.nttNinv := rfl
@[simp] theorem State.storeBytes_mulnX (s : State) (a : Nat) (bs : List Byte) :
    (s.storeBytes a bs).mulnX = s.mulnX := rfl
@[simp] theorem State.storeBytes_mulnY (s : State) (a : Nat) (bs : List Byte) :
    (s.storeBytes a bs).mulnY = s.mulnY := rfl
@[simp] theorem State.storeBytes_mulnR (s : State) (a : Nat) (bs : List Byte) :
    (s.storeBytes a bs).mulnR = s.mulnR := rfl
@[simp] theorem State.storeBytes_nttGen (s : State) (a : Nat) (bs : List Byte) :
    (s.storeBytes a bs).nttGen = s.nttGen := rfl
@[simp] theorem State.storeBytes_ecKbits (s : State) (a : Nat) (bs : List Byte) :
    (s.storeBytes a bs).ecKbits = s.ecKbits := rfl
@[simp] theorem State.storeBytes_rcCount (s : State) (a : Nat) (bs : List Byte) :
    (s.storeBytes a bs).rcCount = s.rcCount := rfl
@[simp] theorem State.storeBytes_rcRemain (s : State) (a : Nat) (bs : List Byte) :
    (s.storeBytes a bs).rcRemain = s.rcRemain := rfl
@[simp] theorem State.storeBytes_rcSym (s : State) (a : Nat) (bs : List Byte) :
    (s.storeBytes a bs).rcSym = s.rcSym := rfl
@[simp] theorem State.storeBytes_cur (s : State) (a : Nat) (bs : List Byte) : (s.storeBytes a bs).cur = s.cur := rfl
@[simp] theorem State.storeBytes_ecP (s : State) (a : Nat) (bs : List Byte) : (s.storeBytes a bs).ecP = s.ecP := rfl
@[simp] theorem State.storeBytes_ecA (s : State) (a : Nat) (bs : List Byte) : (s.storeBytes a bs).ecA = s.ecA := rfl
@[simp] theorem State.storeBytes_ecK (s : State) (a : Nat) (bs : List Byte) : (s.storeBytes a bs).ecK = s.ecK := rfl
@[simp] theorem State.storeBytes_pt (s : State) (a : Nat) (bs : List Byte) : (s.storeBytes a bs).pt = s.pt := rfl
@[simp] theorem State.storeBytes_dummy (s : State) (a : Nat) (bs : List Byte) :
    (s.storeBytes a bs).dummy = s.dummy := rfl
@[simp] theorem State.storeBytes_mem (s : State) (a : Nat) (bs : List Byte) :
    (s.storeBytes a bs).mem = Memory.store s.mem a bs := rfl
@[simp] theorem State.storeBytes_rdata (s : State) (a : Nat) (bs : List Byte) :
    (s.storeBytes a bs).rdata = s.rdata := rfl
@[simp] theorem State.storeBytes_inputs (s : State) (a : Nat) (bs : List Byte) :
    (s.storeBytes a bs).inputs = s.inputs := rfl
@[simp] theorem State.storeBytes_epoch (s : State) (a : Nat) (bs : List Byte) :
    (s.storeBytes a bs).epoch = s.epoch := rfl
@[simp] theorem State.storeBytes_draws (s : State) (a : Nat) (bs : List Byte) :
    (s.storeBytes a bs).draws = s.draws := rfl

/-! ### A store of cells. -/

@[simp] theorem State.storeCells_ctrl (s : State) (a : Nat) (cs : List Dword) :
    (s.storeCells a cs).ctrl = s.ctrl := rfl
@[simp] theorem State.storeCells_status (s : State) (a : Nat) (cs : List Dword) :
    (s.storeCells a cs).status = s.status := rfl
@[simp] theorem State.storeCells_cmd (s : State) (a : Nat) (cs : List Dword) : (s.storeCells a cs).cmd = s.cmd := rfl
@[simp] theorem State.storeCells_pend (s : State) (a : Nat) (cs : List Dword) :
    (s.storeCells a cs).pend = s.pend := rfl
@[simp] theorem State.storeCells_nttLogn (s : State) (a : Nat) (cs : List Dword) :
    (s.storeCells a cs).nttLogn = s.nttLogn := rfl
@[simp] theorem State.storeCells_nttQ (s : State) (a : Nat) (cs : List Dword) :
    (s.storeCells a cs).nttQ = s.nttQ := rfl
@[simp] theorem State.storeCells_nttRoot (s : State) (a : Nat) (cs : List Dword) :
    (s.storeCells a cs).nttRoot = s.nttRoot := rfl
@[simp] theorem State.storeCells_nttRootinv (s : State) (a : Nat) (cs : List Dword) :
    (s.storeCells a cs).nttRootinv = s.nttRootinv := rfl
@[simp] theorem State.storeCells_nttNinv (s : State) (a : Nat) (cs : List Dword) :
    (s.storeCells a cs).nttNinv = s.nttNinv := rfl
@[simp] theorem State.storeCells_mulnX (s : State) (a : Nat) (cs : List Dword) :
    (s.storeCells a cs).mulnX = s.mulnX := rfl
@[simp] theorem State.storeCells_mulnY (s : State) (a : Nat) (cs : List Dword) :
    (s.storeCells a cs).mulnY = s.mulnY := rfl
@[simp] theorem State.storeCells_mulnR (s : State) (a : Nat) (cs : List Dword) :
    (s.storeCells a cs).mulnR = s.mulnR := rfl
@[simp] theorem State.storeCells_nttGen (s : State) (a : Nat) (cs : List Dword) :
    (s.storeCells a cs).nttGen = s.nttGen := rfl
@[simp] theorem State.storeCells_ecKbits (s : State) (a : Nat) (cs : List Dword) :
    (s.storeCells a cs).ecKbits = s.ecKbits := rfl
@[simp] theorem State.storeCells_rcCount (s : State) (a : Nat) (cs : List Dword) :
    (s.storeCells a cs).rcCount = s.rcCount := rfl
@[simp] theorem State.storeCells_rcRemain (s : State) (a : Nat) (cs : List Dword) :
    (s.storeCells a cs).rcRemain = s.rcRemain := rfl
@[simp] theorem State.storeCells_rcSym (s : State) (a : Nat) (cs : List Dword) :
    (s.storeCells a cs).rcSym = s.rcSym := rfl
@[simp] theorem State.storeCells_cur (s : State) (a : Nat) (cs : List Dword) : (s.storeCells a cs).cur = s.cur := rfl
@[simp] theorem State.storeCells_ecP (s : State) (a : Nat) (cs : List Dword) : (s.storeCells a cs).ecP = s.ecP := rfl
@[simp] theorem State.storeCells_ecA (s : State) (a : Nat) (cs : List Dword) : (s.storeCells a cs).ecA = s.ecA := rfl
@[simp] theorem State.storeCells_ecK (s : State) (a : Nat) (cs : List Dword) : (s.storeCells a cs).ecK = s.ecK := rfl
@[simp] theorem State.storeCells_pt (s : State) (a : Nat) (cs : List Dword) : (s.storeCells a cs).pt = s.pt := rfl
@[simp] theorem State.storeCells_dummy (s : State) (a : Nat) (cs : List Dword) :
    (s.storeCells a cs).dummy = s.dummy := rfl
@[simp] theorem State.storeCells_mem (s : State) (a : Nat) (cs : List Dword) :
    (s.storeCells a cs).mem = Memory.store s.mem a (cs.flatMap fun c => leBytes 8 c.toNat) := rfl
@[simp] theorem State.storeCells_rdata (s : State) (a : Nat) (cs : List Dword) :
    (s.storeCells a cs).rdata = s.rdata := rfl
@[simp] theorem State.storeCells_inputs (s : State) (a : Nat) (cs : List Dword) :
    (s.storeCells a cs).inputs = s.inputs := rfl
@[simp] theorem State.storeCells_epoch (s : State) (a : Nat) (cs : List Dword) :
    (s.storeCells a cs).epoch = s.epoch := rfl
@[simp] theorem State.storeCells_draws (s : State) (a : Nat) (cs : List Dword) :
    (s.storeCells a cs).draws = s.draws := rfl

/-! ### The results of a bank command (R57). -/

@[simp] theorem State.writeBank_ctrl (s : State) (d : Fin 4) (c : List Int) : (s.writeBank d c).ctrl = s.ctrl := rfl
@[simp] theorem State.writeBank_status (s : State) (d : Fin 4) (c : List Int) :
    (s.writeBank d c).status = s.status := rfl
@[simp] theorem State.writeBank_cmd (s : State) (d : Fin 4) (c : List Int) : (s.writeBank d c).cmd = s.cmd := rfl
@[simp] theorem State.writeBank_pend (s : State) (d : Fin 4) (c : List Int) : (s.writeBank d c).pend = s.pend := rfl
@[simp] theorem State.writeBank_nttLogn (s : State) (d : Fin 4) (c : List Int) :
    (s.writeBank d c).nttLogn = s.nttLogn := rfl
@[simp] theorem State.writeBank_nttQ (s : State) (d : Fin 4) (c : List Int) : (s.writeBank d c).nttQ = s.nttQ := rfl
@[simp] theorem State.writeBank_nttRoot (s : State) (d : Fin 4) (c : List Int) :
    (s.writeBank d c).nttRoot = s.nttRoot := rfl
@[simp] theorem State.writeBank_nttRootinv (s : State) (d : Fin 4) (c : List Int) :
    (s.writeBank d c).nttRootinv = s.nttRootinv := rfl
@[simp] theorem State.writeBank_nttNinv (s : State) (d : Fin 4) (c : List Int) :
    (s.writeBank d c).nttNinv = s.nttNinv := rfl
@[simp] theorem State.writeBank_mulnX (s : State) (d : Fin 4) (c : List Int) :
    (s.writeBank d c).mulnX = s.mulnX := rfl
@[simp] theorem State.writeBank_mulnY (s : State) (d : Fin 4) (c : List Int) :
    (s.writeBank d c).mulnY = s.mulnY := rfl
@[simp] theorem State.writeBank_mulnR (s : State) (d : Fin 4) (c : List Int) :
    (s.writeBank d c).mulnR = s.mulnR := rfl
@[simp] theorem State.writeBank_nttGen (s : State) (d : Fin 4) (c : List Int) :
    (s.writeBank d c).nttGen = s.nttGen := rfl
@[simp] theorem State.writeBank_ecKbits (s : State) (d : Fin 4) (c : List Int) :
    (s.writeBank d c).ecKbits = s.ecKbits := rfl
@[simp] theorem State.writeBank_rcCount (s : State) (d : Fin 4) (c : List Int) :
    (s.writeBank d c).rcCount = s.rcCount := rfl
@[simp] theorem State.writeBank_rcRemain (s : State) (d : Fin 4) (c : List Int) :
    (s.writeBank d c).rcRemain = s.rcRemain := rfl
@[simp] theorem State.writeBank_rcSym (s : State) (d : Fin 4) (c : List Int) :
    (s.writeBank d c).rcSym = s.rcSym := rfl
@[simp] theorem State.writeBank_cur (s : State) (d : Fin 4) (c : List Int) : (s.writeBank d c).cur = s.cur := rfl
@[simp] theorem State.writeBank_ecP (s : State) (d : Fin 4) (c : List Int) : (s.writeBank d c).ecP = s.ecP := rfl
@[simp] theorem State.writeBank_ecA (s : State) (d : Fin 4) (c : List Int) : (s.writeBank d c).ecA = s.ecA := rfl
@[simp] theorem State.writeBank_ecK (s : State) (d : Fin 4) (c : List Int) : (s.writeBank d c).ecK = s.ecK := rfl
@[simp] theorem State.writeBank_pt (s : State) (d : Fin 4) (c : List Int) : (s.writeBank d c).pt = s.pt := rfl
@[simp] theorem State.writeBank_dummy (s : State) (d : Fin 4) (c : List Int) :
    (s.writeBank d c).dummy = s.dummy := rfl
@[simp] theorem State.writeBank_mem (s : State) (d : Fin 4) (c : List Int) :
    (s.writeBank d c).mem = Memory.store s.mem (bankBase d) ((c.map sext64).flatMap fun c => leBytes 8 c.toNat) := rfl
@[simp] theorem State.writeBank_rdata (s : State) (d : Fin 4) (c : List Int) :
    (s.writeBank d c).rdata = s.rdata := rfl
@[simp] theorem State.writeBank_inputs (s : State) (d : Fin 4) (c : List Int) :
    (s.writeBank d c).inputs = s.inputs := rfl
@[simp] theorem State.writeBank_epoch (s : State) (d : Fin 4) (c : List Int) :
    (s.writeBank d c).epoch = s.epoch := rfl
@[simp] theorem State.writeBank_draws (s : State) (d : Fin 4) (c : List Int) :
    (s.writeBank d c).draws = s.draws := rfl

/-! ### A write of a point register (R260). -/

@[simp] theorem State.setPoint_ctrl (s : State) (d : Fin 4) (p : Affine) : (s.setPoint d p).ctrl = s.ctrl := rfl
@[simp] theorem State.setPoint_status (s : State) (d : Fin 4) (p : Affine) : (s.setPoint d p).status = s.status := rfl
@[simp] theorem State.setPoint_cmd (s : State) (d : Fin 4) (p : Affine) : (s.setPoint d p).cmd = s.cmd := rfl
@[simp] theorem State.setPoint_pend (s : State) (d : Fin 4) (p : Affine) : (s.setPoint d p).pend = s.pend := rfl
@[simp] theorem State.setPoint_nttLogn (s : State) (d : Fin 4) (p : Affine) :
    (s.setPoint d p).nttLogn = s.nttLogn := rfl
@[simp] theorem State.setPoint_nttQ (s : State) (d : Fin 4) (p : Affine) : (s.setPoint d p).nttQ = s.nttQ := rfl
@[simp] theorem State.setPoint_nttRoot (s : State) (d : Fin 4) (p : Affine) :
    (s.setPoint d p).nttRoot = s.nttRoot := rfl
@[simp] theorem State.setPoint_nttRootinv (s : State) (d : Fin 4) (p : Affine) :
    (s.setPoint d p).nttRootinv = s.nttRootinv := rfl
@[simp] theorem State.setPoint_nttNinv (s : State) (d : Fin 4) (p : Affine) :
    (s.setPoint d p).nttNinv = s.nttNinv := rfl
@[simp] theorem State.setPoint_mulnX (s : State) (d : Fin 4) (p : Affine) : (s.setPoint d p).mulnX = s.mulnX := rfl
@[simp] theorem State.setPoint_mulnY (s : State) (d : Fin 4) (p : Affine) : (s.setPoint d p).mulnY = s.mulnY := rfl
@[simp] theorem State.setPoint_mulnR (s : State) (d : Fin 4) (p : Affine) : (s.setPoint d p).mulnR = s.mulnR := rfl
@[simp] theorem State.setPoint_nttGen (s : State) (d : Fin 4) (p : Affine) : (s.setPoint d p).nttGen = s.nttGen := rfl
@[simp] theorem State.setPoint_ecKbits (s : State) (d : Fin 4) (p : Affine) :
    (s.setPoint d p).ecKbits = s.ecKbits := rfl
@[simp] theorem State.setPoint_rcCount (s : State) (d : Fin 4) (p : Affine) :
    (s.setPoint d p).rcCount = s.rcCount := rfl
@[simp] theorem State.setPoint_rcRemain (s : State) (d : Fin 4) (p : Affine) :
    (s.setPoint d p).rcRemain = s.rcRemain := rfl
@[simp] theorem State.setPoint_rcSym (s : State) (d : Fin 4) (p : Affine) : (s.setPoint d p).rcSym = s.rcSym := rfl
@[simp] theorem State.setPoint_cur (s : State) (d : Fin 4) (p : Affine) : (s.setPoint d p).cur = s.cur := rfl
@[simp] theorem State.setPoint_ecP (s : State) (d : Fin 4) (p : Affine) : (s.setPoint d p).ecP = s.ecP := rfl
@[simp] theorem State.setPoint_ecA (s : State) (d : Fin 4) (p : Affine) : (s.setPoint d p).ecA = s.ecA := rfl
@[simp] theorem State.setPoint_ecK (s : State) (d : Fin 4) (p : Affine) : (s.setPoint d p).ecK = s.ecK := rfl
@[simp] theorem State.setPoint_pt (s : State) (d : Fin 4) (p : Affine) :
    (s.setPoint d p).pt = s.pt.set d ⟨zextEc p.x, zextEc p.y⟩ := rfl
@[simp] theorem State.setPoint_dummy (s : State) (d : Fin 4) (p : Affine) : (s.setPoint d p).dummy = s.dummy := rfl
@[simp] theorem State.setPoint_mem (s : State) (d : Fin 4) (p : Affine) : (s.setPoint d p).mem = s.mem := rfl
@[simp] theorem State.setPoint_rdata (s : State) (d : Fin 4) (p : Affine) : (s.setPoint d p).rdata = s.rdata := rfl
@[simp] theorem State.setPoint_inputs (s : State) (d : Fin 4) (p : Affine) : (s.setPoint d p).inputs = s.inputs := rfl
@[simp] theorem State.setPoint_epoch (s : State) (d : Fin 4) (p : Affine) : (s.setPoint d p).epoch = s.epoch := rfl
@[simp] theorem State.setPoint_draws (s : State) (d : Fin 4) (p : Affine) : (s.setPoint d p).draws = s.draws := rfl

/-! ### A write of DUMMY (R270). -/

@[simp] theorem State.setDummy_ctrl (s : State) (p : Affine) : (s.setDummy p).ctrl = s.ctrl := rfl
@[simp] theorem State.setDummy_status (s : State) (p : Affine) : (s.setDummy p).status = s.status := rfl
@[simp] theorem State.setDummy_cmd (s : State) (p : Affine) : (s.setDummy p).cmd = s.cmd := rfl
@[simp] theorem State.setDummy_pend (s : State) (p : Affine) : (s.setDummy p).pend = s.pend := rfl
@[simp] theorem State.setDummy_nttLogn (s : State) (p : Affine) : (s.setDummy p).nttLogn = s.nttLogn := rfl
@[simp] theorem State.setDummy_nttQ (s : State) (p : Affine) : (s.setDummy p).nttQ = s.nttQ := rfl
@[simp] theorem State.setDummy_nttRoot (s : State) (p : Affine) : (s.setDummy p).nttRoot = s.nttRoot := rfl
@[simp] theorem State.setDummy_nttRootinv (s : State) (p : Affine) : (s.setDummy p).nttRootinv = s.nttRootinv := rfl
@[simp] theorem State.setDummy_nttNinv (s : State) (p : Affine) : (s.setDummy p).nttNinv = s.nttNinv := rfl
@[simp] theorem State.setDummy_mulnX (s : State) (p : Affine) : (s.setDummy p).mulnX = s.mulnX := rfl
@[simp] theorem State.setDummy_mulnY (s : State) (p : Affine) : (s.setDummy p).mulnY = s.mulnY := rfl
@[simp] theorem State.setDummy_mulnR (s : State) (p : Affine) : (s.setDummy p).mulnR = s.mulnR := rfl
@[simp] theorem State.setDummy_nttGen (s : State) (p : Affine) : (s.setDummy p).nttGen = s.nttGen := rfl
@[simp] theorem State.setDummy_ecKbits (s : State) (p : Affine) : (s.setDummy p).ecKbits = s.ecKbits := rfl
@[simp] theorem State.setDummy_rcCount (s : State) (p : Affine) : (s.setDummy p).rcCount = s.rcCount := rfl
@[simp] theorem State.setDummy_rcRemain (s : State) (p : Affine) : (s.setDummy p).rcRemain = s.rcRemain := rfl
@[simp] theorem State.setDummy_rcSym (s : State) (p : Affine) : (s.setDummy p).rcSym = s.rcSym := rfl
@[simp] theorem State.setDummy_cur (s : State) (p : Affine) : (s.setDummy p).cur = s.cur := rfl
@[simp] theorem State.setDummy_ecP (s : State) (p : Affine) : (s.setDummy p).ecP = s.ecP := rfl
@[simp] theorem State.setDummy_ecA (s : State) (p : Affine) : (s.setDummy p).ecA = s.ecA := rfl
@[simp] theorem State.setDummy_ecK (s : State) (p : Affine) : (s.setDummy p).ecK = s.ecK := rfl
@[simp] theorem State.setDummy_pt (s : State) (p : Affine) : (s.setDummy p).pt = s.pt := rfl
@[simp] theorem State.setDummy_dummy (s : State) (p : Affine) : (s.setDummy p).dummy = ⟨zextEc p.x, zextEc p.y⟩ := rfl
@[simp] theorem State.setDummy_mem (s : State) (p : Affine) : (s.setDummy p).mem = s.mem := rfl
@[simp] theorem State.setDummy_rdata (s : State) (p : Affine) : (s.setDummy p).rdata = s.rdata := rfl
@[simp] theorem State.setDummy_inputs (s : State) (p : Affine) : (s.setDummy p).inputs = s.inputs := rfl
@[simp] theorem State.setDummy_epoch (s : State) (p : Affine) : (s.setDummy p).epoch = s.epoch := rfl
@[simp] theorem State.setDummy_draws (s : State) (p : Affine) : (s.setDummy p).draws = s.draws := rfl

/-! ### The body of RCINIT (R240). -/

@[simp] theorem State.loadCursor_ctrl (s : State) (m : Coding) : (s.loadCursor m).ctrl = s.ctrl := rfl
@[simp] theorem State.loadCursor_status (s : State) (m : Coding) : (s.loadCursor m).status = s.status := rfl
@[simp] theorem State.loadCursor_cmd (s : State) (m : Coding) : (s.loadCursor m).cmd = s.cmd := rfl
@[simp] theorem State.loadCursor_pend (s : State) (m : Coding) : (s.loadCursor m).pend = s.pend := rfl
@[simp] theorem State.loadCursor_nttLogn (s : State) (m : Coding) : (s.loadCursor m).nttLogn = s.nttLogn := rfl
@[simp] theorem State.loadCursor_nttQ (s : State) (m : Coding) : (s.loadCursor m).nttQ = s.nttQ := rfl
@[simp] theorem State.loadCursor_nttRoot (s : State) (m : Coding) : (s.loadCursor m).nttRoot = s.nttRoot := rfl
@[simp] theorem State.loadCursor_nttRootinv (s : State) (m : Coding) :
    (s.loadCursor m).nttRootinv = s.nttRootinv := rfl
@[simp] theorem State.loadCursor_nttNinv (s : State) (m : Coding) : (s.loadCursor m).nttNinv = s.nttNinv := rfl
@[simp] theorem State.loadCursor_mulnX (s : State) (m : Coding) : (s.loadCursor m).mulnX = s.mulnX := rfl
@[simp] theorem State.loadCursor_mulnY (s : State) (m : Coding) : (s.loadCursor m).mulnY = s.mulnY := rfl
@[simp] theorem State.loadCursor_mulnR (s : State) (m : Coding) : (s.loadCursor m).mulnR = s.mulnR := rfl
@[simp] theorem State.loadCursor_nttGen (s : State) (m : Coding) : (s.loadCursor m).nttGen = s.nttGen := rfl
@[simp] theorem State.loadCursor_ecKbits (s : State) (m : Coding) : (s.loadCursor m).ecKbits = s.ecKbits := rfl
@[simp] theorem State.loadCursor_rcCount (s : State) (m : Coding) :
    (s.loadCursor m).rcCount = BitVec.ofNat 10 (recode s.secret m).length := rfl
@[simp] theorem State.loadCursor_rcRemain (s : State) (m : Coding) :
    (s.loadCursor m).rcRemain = BitVec.ofNat 10 (recode s.secret m).length := rfl
@[simp] theorem State.loadCursor_rcSym (s : State) (m : Coding) : (s.loadCursor m).rcSym = s.rcSym := rfl
@[simp] theorem State.loadCursor_cur (s : State) (m : Coding) :
    (s.loadCursor m).cur = { mode := m, seq := recode s.secret m } := rfl
@[simp] theorem State.loadCursor_ecP (s : State) (m : Coding) : (s.loadCursor m).ecP = s.ecP := rfl
@[simp] theorem State.loadCursor_ecA (s : State) (m : Coding) : (s.loadCursor m).ecA = s.ecA := rfl
@[simp] theorem State.loadCursor_ecK (s : State) (m : Coding) : (s.loadCursor m).ecK = s.ecK := rfl
@[simp] theorem State.loadCursor_pt (s : State) (m : Coding) : (s.loadCursor m).pt = s.pt := rfl
@[simp] theorem State.loadCursor_dummy (s : State) (m : Coding) : (s.loadCursor m).dummy = s.dummy := rfl
@[simp] theorem State.loadCursor_mem (s : State) (m : Coding) : (s.loadCursor m).mem = s.mem := rfl
@[simp] theorem State.loadCursor_rdata (s : State) (m : Coding) : (s.loadCursor m).rdata = s.rdata := rfl
@[simp] theorem State.loadCursor_inputs (s : State) (m : Coding) : (s.loadCursor m).inputs = s.inputs := rfl
@[simp] theorem State.loadCursor_epoch (s : State) (m : Coding) : (s.loadCursor m).epoch = s.epoch := rfl
@[simp] theorem State.loadCursor_draws (s : State) (m : Coding) : (s.loadCursor m).draws = s.draws := rfl

/-! ### The body of RCPULL (R242). -/

@[simp] theorem State.pulled_ctrl (s : State) (y : Symbol) (rest : List Symbol) :
    (s.pulled y rest).ctrl = s.ctrl := rfl
@[simp] theorem State.pulled_status (s : State) (y : Symbol) (rest : List Symbol) :
    (s.pulled y rest).status = s.status := rfl
@[simp] theorem State.pulled_cmd (s : State) (y : Symbol) (rest : List Symbol) : (s.pulled y rest).cmd = s.cmd := rfl
@[simp] theorem State.pulled_pend (s : State) (y : Symbol) (rest : List Symbol) :
    (s.pulled y rest).pend = s.pend := rfl
@[simp] theorem State.pulled_nttLogn (s : State) (y : Symbol) (rest : List Symbol) :
    (s.pulled y rest).nttLogn = s.nttLogn := rfl
@[simp] theorem State.pulled_nttQ (s : State) (y : Symbol) (rest : List Symbol) :
    (s.pulled y rest).nttQ = s.nttQ := rfl
@[simp] theorem State.pulled_nttRoot (s : State) (y : Symbol) (rest : List Symbol) :
    (s.pulled y rest).nttRoot = s.nttRoot := rfl
@[simp] theorem State.pulled_nttRootinv (s : State) (y : Symbol) (rest : List Symbol) :
    (s.pulled y rest).nttRootinv = s.nttRootinv := rfl
@[simp] theorem State.pulled_nttNinv (s : State) (y : Symbol) (rest : List Symbol) :
    (s.pulled y rest).nttNinv = s.nttNinv := rfl
@[simp] theorem State.pulled_mulnX (s : State) (y : Symbol) (rest : List Symbol) :
    (s.pulled y rest).mulnX = s.mulnX := rfl
@[simp] theorem State.pulled_mulnY (s : State) (y : Symbol) (rest : List Symbol) :
    (s.pulled y rest).mulnY = s.mulnY := rfl
@[simp] theorem State.pulled_mulnR (s : State) (y : Symbol) (rest : List Symbol) :
    (s.pulled y rest).mulnR = s.mulnR := rfl
@[simp] theorem State.pulled_nttGen (s : State) (y : Symbol) (rest : List Symbol) :
    (s.pulled y rest).nttGen = s.nttGen := rfl
@[simp] theorem State.pulled_ecKbits (s : State) (y : Symbol) (rest : List Symbol) :
    (s.pulled y rest).ecKbits = s.ecKbits := rfl
@[simp] theorem State.pulled_rcCount (s : State) (y : Symbol) (rest : List Symbol) :
    (s.pulled y rest).rcCount = s.rcCount := rfl
@[simp] theorem State.pulled_rcRemain (s : State) (y : Symbol) (rest : List Symbol) :
    (s.pulled y rest).rcRemain = BitVec.ofNat 10 rest.length := rfl
@[simp] theorem State.pulled_rcSym (s : State) (y : Symbol) (rest : List Symbol) : (s.pulled y rest).rcSym = y := rfl
@[simp] theorem State.pulled_cur (s : State) (y : Symbol) (rest : List Symbol) :
    (s.pulled y rest).cur = { s.cur with seq := rest } := rfl
@[simp] theorem State.pulled_ecP (s : State) (y : Symbol) (rest : List Symbol) : (s.pulled y rest).ecP = s.ecP := rfl
@[simp] theorem State.pulled_ecA (s : State) (y : Symbol) (rest : List Symbol) : (s.pulled y rest).ecA = s.ecA := rfl
@[simp] theorem State.pulled_ecK (s : State) (y : Symbol) (rest : List Symbol) : (s.pulled y rest).ecK = s.ecK := rfl
@[simp] theorem State.pulled_pt (s : State) (y : Symbol) (rest : List Symbol) : (s.pulled y rest).pt = s.pt := rfl
@[simp] theorem State.pulled_dummy (s : State) (y : Symbol) (rest : List Symbol) :
    (s.pulled y rest).dummy = s.dummy := rfl
@[simp] theorem State.pulled_mem (s : State) (y : Symbol) (rest : List Symbol) : (s.pulled y rest).mem = s.mem := rfl
@[simp] theorem State.pulled_rdata (s : State) (y : Symbol) (rest : List Symbol) :
    (s.pulled y rest).rdata = s.rdata := rfl
@[simp] theorem State.pulled_inputs (s : State) (y : Symbol) (rest : List Symbol) :
    (s.pulled y rest).inputs = s.inputs := rfl
@[simp] theorem State.pulled_epoch (s : State) (y : Symbol) (rest : List Symbol) :
    (s.pulled y rest).epoch = s.epoch := rfl
@[simp] theorem State.pulled_draws (s : State) (y : Symbol) (rest : List Symbol) :
    (s.pulled y rest).draws = s.draws := rfl

/-! ### The parameters a command reads, after the updates that leave them -/

@[simp] theorem State.setPvalid_modulus (s : State) (v : Bool) : (s.setPvalid v).modulus = s.modulus := rfl
@[simp] theorem State.setPvalid_logn (s : State) (v : Bool) : (s.setPvalid v).logn = s.logn := rfl
@[simp] theorem State.setPvalid_len (s : State) (v : Bool) : (s.setPvalid v).len = s.len := rfl
@[simp] theorem State.setPvalid_width (s : State) (v : Bool) : (s.setPvalid v).width = s.width := rfl
@[simp] theorem State.setPvalid_ecModulus (s : State) (v : Bool) : (s.setPvalid v).ecModulus = s.ecModulus := rfl
@[simp] theorem State.setPvalid_curveA (s : State) (v : Bool) : (s.setPvalid v).curveA = s.curveA := rfl
@[simp] theorem State.setPvalid_secret (s : State) (v : Bool) : (s.setPvalid v).secret = s.secret := rfl
@[simp] theorem State.setPvalid_ecModulusOk (s : State) (v : Bool) : (s.setPvalid v).ecModulusOk = s.ecModulusOk := rfl
@[simp] theorem State.setPvalid_kbitsOk (s : State) (v : Bool) : (s.setPvalid v).kbitsOk = s.kbitsOk := rfl
@[simp] theorem State.setPvalid_modulusOk (s : State) (v : Bool) : (s.setPvalid v).modulusOk = s.modulusOk := rfl
@[simp] theorem State.setPvalid_lengthOk (s : State) (v : Bool) : (s.setPvalid v).lengthOk = s.lengthOk := rfl

@[simp] theorem State.setBuserr_modulus (s : State) : (s.setBuserr).modulus = s.modulus := rfl
@[simp] theorem State.setBuserr_logn (s : State) : (s.setBuserr).logn = s.logn := rfl
@[simp] theorem State.setBuserr_len (s : State) : (s.setBuserr).len = s.len := rfl
@[simp] theorem State.setBuserr_width (s : State) : (s.setBuserr).width = s.width := rfl
@[simp] theorem State.setBuserr_ecModulus (s : State) : (s.setBuserr).ecModulus = s.ecModulus := rfl
@[simp] theorem State.setBuserr_curveA (s : State) : (s.setBuserr).curveA = s.curveA := rfl
@[simp] theorem State.setBuserr_secret (s : State) : (s.setBuserr).secret = s.secret := rfl
@[simp] theorem State.setBuserr_ecModulusOk (s : State) : (s.setBuserr).ecModulusOk = s.ecModulusOk := rfl
@[simp] theorem State.setBuserr_kbitsOk (s : State) : (s.setBuserr).kbitsOk = s.kbitsOk := rfl
@[simp] theorem State.setBuserr_modulusOk (s : State) : (s.setBuserr).modulusOk = s.modulusOk := rfl
@[simp] theorem State.setBuserr_lengthOk (s : State) : (s.setBuserr).lengthOk = s.lengthOk := rfl
@[simp] theorem State.setBuserr_nttCheck (s : State) (l : CheckLevel) :
    (s.setBuserr).nttCheck l = s.nttCheck l := by cases l <;> rfl

@[simp] theorem State.setOvr_modulus (s : State) : (s.setOvr).modulus = s.modulus := rfl
@[simp] theorem State.setOvr_logn (s : State) : (s.setOvr).logn = s.logn := rfl
@[simp] theorem State.setOvr_len (s : State) : (s.setOvr).len = s.len := rfl
@[simp] theorem State.setOvr_width (s : State) : (s.setOvr).width = s.width := rfl
@[simp] theorem State.setOvr_ecModulus (s : State) : (s.setOvr).ecModulus = s.ecModulus := rfl
@[simp] theorem State.setOvr_curveA (s : State) : (s.setOvr).curveA = s.curveA := rfl
@[simp] theorem State.setOvr_secret (s : State) : (s.setOvr).secret = s.secret := rfl
@[simp] theorem State.setOvr_ecModulusOk (s : State) : (s.setOvr).ecModulusOk = s.ecModulusOk := rfl
@[simp] theorem State.setOvr_kbitsOk (s : State) : (s.setOvr).kbitsOk = s.kbitsOk := rfl
@[simp] theorem State.setOvr_modulusOk (s : State) : (s.setOvr).modulusOk = s.modulusOk := rfl
@[simp] theorem State.setOvr_lengthOk (s : State) : (s.setOvr).lengthOk = s.lengthOk := rfl
@[simp] theorem State.setOvr_nttCheck (s : State) (l : CheckLevel) :
    (s.setOvr).nttCheck l = s.nttCheck l := by cases l <;> rfl

@[simp] theorem State.accept_modulus (s : State) (w : Word) : (s.accept w).modulus = s.modulus := rfl
@[simp] theorem State.accept_logn (s : State) (w : Word) : (s.accept w).logn = s.logn := rfl
@[simp] theorem State.accept_len (s : State) (w : Word) : (s.accept w).len = s.len := rfl
@[simp] theorem State.accept_width (s : State) (w : Word) : (s.accept w).width = s.width := rfl
@[simp] theorem State.accept_ecModulus (s : State) (w : Word) : (s.accept w).ecModulus = s.ecModulus := rfl
@[simp] theorem State.accept_curveA (s : State) (w : Word) : (s.accept w).curveA = s.curveA := rfl
@[simp] theorem State.accept_secret (s : State) (w : Word) : (s.accept w).secret = s.secret := rfl
@[simp] theorem State.accept_ecModulusOk (s : State) (w : Word) : (s.accept w).ecModulusOk = s.ecModulusOk := rfl
@[simp] theorem State.accept_kbitsOk (s : State) (w : Word) : (s.accept w).kbitsOk = s.kbitsOk := rfl
@[simp] theorem State.accept_modulusOk (s : State) (w : Word) : (s.accept w).modulusOk = s.modulusOk := rfl
@[simp] theorem State.accept_lengthOk (s : State) (w : Word) : (s.accept w).lengthOk = s.lengthOk := rfl
@[simp] theorem State.accept_nttCheck (s : State) (w : Word) (l : CheckLevel) :
    (s.accept w).nttCheck l = s.nttCheck l := by cases l <;> rfl

@[simp] theorem State.complete_modulus (s : State) (c : ErrCode) : (s.complete c).modulus = s.modulus := rfl
@[simp] theorem State.complete_logn (s : State) (c : ErrCode) : (s.complete c).logn = s.logn := rfl
@[simp] theorem State.complete_len (s : State) (c : ErrCode) : (s.complete c).len = s.len := rfl
@[simp] theorem State.complete_width (s : State) (c : ErrCode) : (s.complete c).width = s.width := rfl
@[simp] theorem State.complete_ecModulus (s : State) (c : ErrCode) : (s.complete c).ecModulus = s.ecModulus := rfl
@[simp] theorem State.complete_curveA (s : State) (c : ErrCode) : (s.complete c).curveA = s.curveA := rfl
@[simp] theorem State.complete_secret (s : State) (c : ErrCode) : (s.complete c).secret = s.secret := rfl
@[simp] theorem State.complete_ecModulusOk (s : State) (c : ErrCode) : (s.complete c).ecModulusOk = s.ecModulusOk := rfl
@[simp] theorem State.complete_kbitsOk (s : State) (c : ErrCode) : (s.complete c).kbitsOk = s.kbitsOk := rfl
@[simp] theorem State.complete_modulusOk (s : State) (c : ErrCode) : (s.complete c).modulusOk = s.modulusOk := rfl
@[simp] theorem State.complete_lengthOk (s : State) (c : ErrCode) : (s.complete c).lengthOk = s.lengthOk := rfl
@[simp] theorem State.complete_nttCheck (s : State) (c : ErrCode) (l : CheckLevel) :
    (s.complete c).nttCheck l = s.nttCheck l := by cases l <;> rfl

@[simp] theorem State.storeBytes_modulus (s : State) (a : Nat) (bs : List Byte) : (s.storeBytes a bs).modulus = s.modulus := rfl
@[simp] theorem State.storeBytes_logn (s : State) (a : Nat) (bs : List Byte) : (s.storeBytes a bs).logn = s.logn := rfl
@[simp] theorem State.storeBytes_len (s : State) (a : Nat) (bs : List Byte) : (s.storeBytes a bs).len = s.len := rfl
@[simp] theorem State.storeBytes_width (s : State) (a : Nat) (bs : List Byte) : (s.storeBytes a bs).width = s.width := rfl
@[simp] theorem State.storeBytes_ecModulus (s : State) (a : Nat) (bs : List Byte) : (s.storeBytes a bs).ecModulus = s.ecModulus := rfl
@[simp] theorem State.storeBytes_curveA (s : State) (a : Nat) (bs : List Byte) : (s.storeBytes a bs).curveA = s.curveA := rfl
@[simp] theorem State.storeBytes_secret (s : State) (a : Nat) (bs : List Byte) : (s.storeBytes a bs).secret = s.secret := rfl
@[simp] theorem State.storeBytes_ecModulusOk (s : State) (a : Nat) (bs : List Byte) : (s.storeBytes a bs).ecModulusOk = s.ecModulusOk := rfl
@[simp] theorem State.storeBytes_kbitsOk (s : State) (a : Nat) (bs : List Byte) : (s.storeBytes a bs).kbitsOk = s.kbitsOk := rfl
@[simp] theorem State.storeBytes_modulusOk (s : State) (a : Nat) (bs : List Byte) : (s.storeBytes a bs).modulusOk = s.modulusOk := rfl
@[simp] theorem State.storeBytes_lengthOk (s : State) (a : Nat) (bs : List Byte) : (s.storeBytes a bs).lengthOk = s.lengthOk := rfl
@[simp] theorem State.storeBytes_nttCheck (s : State) (a : Nat) (bs : List Byte) (l : CheckLevel) :
    (s.storeBytes a bs).nttCheck l = s.nttCheck l := by cases l <;> rfl

@[simp] theorem State.storeCells_modulus (s : State) (a : Nat) (cs : List Dword) : (s.storeCells a cs).modulus = s.modulus := rfl
@[simp] theorem State.storeCells_logn (s : State) (a : Nat) (cs : List Dword) : (s.storeCells a cs).logn = s.logn := rfl
@[simp] theorem State.storeCells_len (s : State) (a : Nat) (cs : List Dword) : (s.storeCells a cs).len = s.len := rfl
@[simp] theorem State.storeCells_width (s : State) (a : Nat) (cs : List Dword) : (s.storeCells a cs).width = s.width := rfl
@[simp] theorem State.storeCells_ecModulus (s : State) (a : Nat) (cs : List Dword) : (s.storeCells a cs).ecModulus = s.ecModulus := rfl
@[simp] theorem State.storeCells_curveA (s : State) (a : Nat) (cs : List Dword) : (s.storeCells a cs).curveA = s.curveA := rfl
@[simp] theorem State.storeCells_secret (s : State) (a : Nat) (cs : List Dword) : (s.storeCells a cs).secret = s.secret := rfl
@[simp] theorem State.storeCells_ecModulusOk (s : State) (a : Nat) (cs : List Dword) : (s.storeCells a cs).ecModulusOk = s.ecModulusOk := rfl
@[simp] theorem State.storeCells_kbitsOk (s : State) (a : Nat) (cs : List Dword) : (s.storeCells a cs).kbitsOk = s.kbitsOk := rfl
@[simp] theorem State.storeCells_modulusOk (s : State) (a : Nat) (cs : List Dword) : (s.storeCells a cs).modulusOk = s.modulusOk := rfl
@[simp] theorem State.storeCells_lengthOk (s : State) (a : Nat) (cs : List Dword) : (s.storeCells a cs).lengthOk = s.lengthOk := rfl
@[simp] theorem State.storeCells_nttCheck (s : State) (a : Nat) (cs : List Dword) (l : CheckLevel) :
    (s.storeCells a cs).nttCheck l = s.nttCheck l := by cases l <;> rfl

@[simp] theorem State.writeBank_modulus (s : State) (d : Fin 4) (c : List Int) : (s.writeBank d c).modulus = s.modulus := rfl
@[simp] theorem State.writeBank_logn (s : State) (d : Fin 4) (c : List Int) : (s.writeBank d c).logn = s.logn := rfl
@[simp] theorem State.writeBank_len (s : State) (d : Fin 4) (c : List Int) : (s.writeBank d c).len = s.len := rfl
@[simp] theorem State.writeBank_width (s : State) (d : Fin 4) (c : List Int) : (s.writeBank d c).width = s.width := rfl
@[simp] theorem State.writeBank_ecModulus (s : State) (d : Fin 4) (c : List Int) : (s.writeBank d c).ecModulus = s.ecModulus := rfl
@[simp] theorem State.writeBank_curveA (s : State) (d : Fin 4) (c : List Int) : (s.writeBank d c).curveA = s.curveA := rfl
@[simp] theorem State.writeBank_secret (s : State) (d : Fin 4) (c : List Int) : (s.writeBank d c).secret = s.secret := rfl
@[simp] theorem State.writeBank_ecModulusOk (s : State) (d : Fin 4) (c : List Int) : (s.writeBank d c).ecModulusOk = s.ecModulusOk := rfl
@[simp] theorem State.writeBank_kbitsOk (s : State) (d : Fin 4) (c : List Int) : (s.writeBank d c).kbitsOk = s.kbitsOk := rfl
@[simp] theorem State.writeBank_modulusOk (s : State) (d : Fin 4) (c : List Int) : (s.writeBank d c).modulusOk = s.modulusOk := rfl
@[simp] theorem State.writeBank_lengthOk (s : State) (d : Fin 4) (c : List Int) : (s.writeBank d c).lengthOk = s.lengthOk := rfl
@[simp] theorem State.writeBank_nttCheck (s : State) (d : Fin 4) (c : List Int) (l : CheckLevel) :
    (s.writeBank d c).nttCheck l = s.nttCheck l := by cases l <;> rfl

@[simp] theorem State.setPoint_modulus (s : State) (d : Fin 4) (p : Affine) : (s.setPoint d p).modulus = s.modulus := rfl
@[simp] theorem State.setPoint_logn (s : State) (d : Fin 4) (p : Affine) : (s.setPoint d p).logn = s.logn := rfl
@[simp] theorem State.setPoint_len (s : State) (d : Fin 4) (p : Affine) : (s.setPoint d p).len = s.len := rfl
@[simp] theorem State.setPoint_width (s : State) (d : Fin 4) (p : Affine) : (s.setPoint d p).width = s.width := rfl
@[simp] theorem State.setPoint_ecModulus (s : State) (d : Fin 4) (p : Affine) : (s.setPoint d p).ecModulus = s.ecModulus := rfl
@[simp] theorem State.setPoint_curveA (s : State) (d : Fin 4) (p : Affine) : (s.setPoint d p).curveA = s.curveA := rfl
@[simp] theorem State.setPoint_secret (s : State) (d : Fin 4) (p : Affine) : (s.setPoint d p).secret = s.secret := rfl
@[simp] theorem State.setPoint_ecModulusOk (s : State) (d : Fin 4) (p : Affine) : (s.setPoint d p).ecModulusOk = s.ecModulusOk := rfl
@[simp] theorem State.setPoint_kbitsOk (s : State) (d : Fin 4) (p : Affine) : (s.setPoint d p).kbitsOk = s.kbitsOk := rfl
@[simp] theorem State.setPoint_modulusOk (s : State) (d : Fin 4) (p : Affine) : (s.setPoint d p).modulusOk = s.modulusOk := rfl
@[simp] theorem State.setPoint_lengthOk (s : State) (d : Fin 4) (p : Affine) : (s.setPoint d p).lengthOk = s.lengthOk := rfl
@[simp] theorem State.setPoint_nttCheck (s : State) (d : Fin 4) (p : Affine) (l : CheckLevel) :
    (s.setPoint d p).nttCheck l = s.nttCheck l := by cases l <;> rfl

@[simp] theorem State.setDummy_modulus (s : State) (p : Affine) : (s.setDummy p).modulus = s.modulus := rfl
@[simp] theorem State.setDummy_logn (s : State) (p : Affine) : (s.setDummy p).logn = s.logn := rfl
@[simp] theorem State.setDummy_len (s : State) (p : Affine) : (s.setDummy p).len = s.len := rfl
@[simp] theorem State.setDummy_width (s : State) (p : Affine) : (s.setDummy p).width = s.width := rfl
@[simp] theorem State.setDummy_ecModulus (s : State) (p : Affine) : (s.setDummy p).ecModulus = s.ecModulus := rfl
@[simp] theorem State.setDummy_curveA (s : State) (p : Affine) : (s.setDummy p).curveA = s.curveA := rfl
@[simp] theorem State.setDummy_secret (s : State) (p : Affine) : (s.setDummy p).secret = s.secret := rfl
@[simp] theorem State.setDummy_ecModulusOk (s : State) (p : Affine) : (s.setDummy p).ecModulusOk = s.ecModulusOk := rfl
@[simp] theorem State.setDummy_kbitsOk (s : State) (p : Affine) : (s.setDummy p).kbitsOk = s.kbitsOk := rfl
@[simp] theorem State.setDummy_modulusOk (s : State) (p : Affine) : (s.setDummy p).modulusOk = s.modulusOk := rfl
@[simp] theorem State.setDummy_lengthOk (s : State) (p : Affine) : (s.setDummy p).lengthOk = s.lengthOk := rfl
@[simp] theorem State.setDummy_nttCheck (s : State) (p : Affine) (l : CheckLevel) :
    (s.setDummy p).nttCheck l = s.nttCheck l := by cases l <;> rfl

@[simp] theorem State.loadCursor_modulus (s : State) (m : Coding) : (s.loadCursor m).modulus = s.modulus := rfl
@[simp] theorem State.loadCursor_logn (s : State) (m : Coding) : (s.loadCursor m).logn = s.logn := rfl
@[simp] theorem State.loadCursor_len (s : State) (m : Coding) : (s.loadCursor m).len = s.len := rfl
@[simp] theorem State.loadCursor_width (s : State) (m : Coding) : (s.loadCursor m).width = s.width := rfl
@[simp] theorem State.loadCursor_ecModulus (s : State) (m : Coding) : (s.loadCursor m).ecModulus = s.ecModulus := rfl
@[simp] theorem State.loadCursor_curveA (s : State) (m : Coding) : (s.loadCursor m).curveA = s.curveA := rfl
@[simp] theorem State.loadCursor_secret (s : State) (m : Coding) : (s.loadCursor m).secret = s.secret := rfl
@[simp] theorem State.loadCursor_ecModulusOk (s : State) (m : Coding) : (s.loadCursor m).ecModulusOk = s.ecModulusOk := rfl
@[simp] theorem State.loadCursor_kbitsOk (s : State) (m : Coding) : (s.loadCursor m).kbitsOk = s.kbitsOk := rfl
@[simp] theorem State.loadCursor_modulusOk (s : State) (m : Coding) : (s.loadCursor m).modulusOk = s.modulusOk := rfl
@[simp] theorem State.loadCursor_lengthOk (s : State) (m : Coding) : (s.loadCursor m).lengthOk = s.lengthOk := rfl
@[simp] theorem State.loadCursor_nttCheck (s : State) (m : Coding) (l : CheckLevel) :
    (s.loadCursor m).nttCheck l = s.nttCheck l := by cases l <;> rfl

@[simp] theorem State.pulled_modulus (s : State) (y : Symbol) (rest : List Symbol) : (s.pulled y rest).modulus = s.modulus := rfl
@[simp] theorem State.pulled_logn (s : State) (y : Symbol) (rest : List Symbol) : (s.pulled y rest).logn = s.logn := rfl
@[simp] theorem State.pulled_len (s : State) (y : Symbol) (rest : List Symbol) : (s.pulled y rest).len = s.len := rfl
@[simp] theorem State.pulled_width (s : State) (y : Symbol) (rest : List Symbol) : (s.pulled y rest).width = s.width := rfl
@[simp] theorem State.pulled_ecModulus (s : State) (y : Symbol) (rest : List Symbol) : (s.pulled y rest).ecModulus = s.ecModulus := rfl
@[simp] theorem State.pulled_curveA (s : State) (y : Symbol) (rest : List Symbol) : (s.pulled y rest).curveA = s.curveA := rfl
@[simp] theorem State.pulled_secret (s : State) (y : Symbol) (rest : List Symbol) : (s.pulled y rest).secret = s.secret := rfl
@[simp] theorem State.pulled_ecModulusOk (s : State) (y : Symbol) (rest : List Symbol) : (s.pulled y rest).ecModulusOk = s.ecModulusOk := rfl
@[simp] theorem State.pulled_kbitsOk (s : State) (y : Symbol) (rest : List Symbol) : (s.pulled y rest).kbitsOk = s.kbitsOk := rfl
@[simp] theorem State.pulled_modulusOk (s : State) (y : Symbol) (rest : List Symbol) : (s.pulled y rest).modulusOk = s.modulusOk := rfl
@[simp] theorem State.pulled_lengthOk (s : State) (y : Symbol) (rest : List Symbol) : (s.pulled y rest).lengthOk = s.lengthOk := rfl
@[simp] theorem State.pulled_nttCheck (s : State) (y : Symbol) (rest : List Symbol) (l : CheckLevel) :
    (s.pulled y rest).nttCheck l = s.nttCheck l := by cases l <;> rfl

end Sys2Proof.Machine
end

