-- ==== Sys2Proof/Laws/Memory.lean ====
section
/-! SUPPORT. Reading and writing the RAM: a read after a write gives the byte written, a write leaves every other byte
alone, the canonical form is kept, and the fast walks read the same as byte by byte. -/

namespace Sys2Proof.Machine

/-! ### Bytes of a number -/

@[simp] theorem leBytes_length (n v : Nat) : (leBytes n v).length = n := by
  induction n generalizing v with
  | zero => rfl
  | succ n ih => simp [leBytes, ih]

theorem ofLeBytes_leBytes (n v : Nat) : ofLeBytes (leBytes n v) = v % 256 ^ n := by
  induction n generalizing v with
  | zero => simp [leBytes, ofLeBytes, Nat.mod_one]
  | succ n ih =>
    rw [leBytes, ofLeBytes, ih, BitVec.toNat_ofNat, pow_succ' 256 n]
    exact (Nat.mod_mul (a := 256) (b := 256 ^ n)).symm

theorem ofLeBytes_lt (bs : List Byte) : ofLeBytes bs < 256 ^ bs.length := by
  induction bs with
  | nil => simp [ofLeBytes]
  | cons b bs ih =>
    have := b.isLt
    simp only [ofLeBytes, List.length_cons, pow_succ']
    omega

/-- The eight bytes of a cell make up the cell. -/
theorem cell_of_leBytes (c : Dword) : BitVec.ofNat 64 (ofLeBytes (leBytes 8 c.toNat)) = c := by
  rw [ofLeBytes_leBytes]
  apply BitVec.eq_of_toNat_eq
  have := c.isLt
  simp only [BitVec.toNat_ofNat]
  omega

/-! ### A list of entries -/

theorem Memory.byte?_cons (k : Nat) (v : Byte) (m : Memory) (a : Nat) :
    Memory.byte? ((k, v) :: m) a = if k = a then some v else Memory.byte? m a := rfl

theorem Memory.byte?_append (m m' : Memory) (a : Nat) :
    Memory.byte? (m ++ m') a = (Memory.byte? m a).or (Memory.byte? m' a) := by
  induction m with
  | nil => rfl
  | cons c m ih =>
    obtain ⟨k, v⟩ := c
    rw [List.cons_append, Memory.byte?_cons, Memory.byte?_cons, ih]
    split <;> rfl

/-- Dropping entries by their offset leaves the entries of the other offsets. -/
theorem Memory.byte?_filter (p : Nat → Bool) (m : Memory) (a : Nat) :
    Memory.byte? (m.filter fun c => p c.1) a = if p a then Memory.byte? m a else none := by
  induction m with
  | nil => simp [Memory.byte?]
  | cons c m ih =>
    obtain ⟨k, v⟩ := c
    rw [List.filter_cons, Memory.byte?_cons]
    by_cases hk : k = a
    · subst hk
      cases hp : p k <;> simp_all [Memory.byte?_cons]
    · cases hp : p k <;> simp_all [Memory.byte?_cons]

theorem Memory.byte?_entries (bs : List Byte) (b a : Nat) :
    Memory.byte? (Memory.entries b bs) a = if b ≤ a ∧ a < b + bs.length then bs[a - b]? else none := by
  induction bs generalizing b with
  | nil => simp [Memory.entries, Memory.byte?]
  | cons x bs ih =>
    rw [Memory.entries, Memory.byte?_cons, ih]
    by_cases h : b = a
    · subst h; simp
    · rw [if_neg h]
      by_cases h2 : b + 1 ≤ a ∧ a < b + 1 + bs.length
      · rw [if_pos h2, if_pos (by simp only [List.length_cons]; omega),
          show a - b = (a - (b + 1)) + 1 by omega, List.getElem?_cons_succ]
      · rw [if_neg h2, if_neg (by simp only [List.length_cons]; omega)]

/-- Everything a store does to the bytes stored: the block holds the bytes written, every other offset what it held. -/
theorem Memory.byte?_store (m : Memory) (b : Nat) (bs : List Byte) (a : Nat) :
    Memory.byte? (Memory.store m b bs) a
      = if b ≤ a ∧ a < b + bs.length then bs[a - b]? else Memory.byte? m a := by
  have h1 := Memory.byte?_filter (fun k => decide (k < b)) m a
  have h2 := Memory.byte?_filter (fun k => decide (b + bs.length ≤ k)) m a
  rw [Memory.store, Memory.byte?_append, Memory.byte?_append, h1, h2, Memory.byte?_entries]
  by_cases h : b ≤ a ∧ a < b + bs.length
  · obtain ⟨v, hv⟩ : ∃ v, bs[a - b]? = some v := ⟨_, List.getElem?_eq_getElem (by omega)⟩
    simp [h, hv, show ¬ a < b by omega]
  · by_cases h3 : a < b
    · simp [h3, show ¬ b + bs.length ≤ a by omega, show ¬ b ≤ a by omega]
    · simp [h3, show b + bs.length ≤ a by omega, show ¬ a < b + bs.length by omega]

/-! ### The canonical form -/

theorem Memory.wf_nil : Memory.wf [] = true := rfl

theorem Memory.entries_ge (bs : List Byte) (a : Nat) (c : Host.Cell) (h : c ∈ Memory.entries a bs) :
    a ≤ c.1 ∧ c.1 < a + bs.length := by
  induction bs generalizing a with
  | nil => simp [Memory.entries] at h
  | cons b bs ih =>
    rw [Memory.entries, List.mem_cons] at h
    rcases h with rfl | h
    · simp
    · have := ih (a + 1) h
      simp only [List.length_cons]
      omega

theorem Memory.entries_rising (bs : List Byte) (a : Nat) :
    (Memory.entries a bs).Pairwise fun c d => c.1 < d.1 := by
  induction bs generalizing a with
  | nil => exact List.Pairwise.nil
  | cons b bs ih =>
    refine List.Pairwise.cons (fun c hc => ?_) (ih (a + 1))
    have := Memory.entries_ge bs (a + 1) c hc
    show a < c.1
    omega

/-- A store keeps the canonical form. -/
theorem Memory.wf_store (m : Memory) (a : Nat) (bs : List Byte) (h : Memory.wf m = true) :
    Memory.wf (Memory.store m a bs) = true := by
  simp only [Memory.wf, decide_eq_true_eq] at h ⊢
  rw [Memory.store, List.pairwise_append, List.pairwise_append]
  refine ⟨⟨h.filter _, Memory.entries_rising bs a, ?_⟩, h.filter _, ?_⟩
  · intro c hc d hd
    have := Memory.entries_ge bs a d hd
    have := of_decide_eq_true (List.mem_filter.mp hc).2
    omega
  · intro c hc d hd
    have hd' := of_decide_eq_true (List.mem_filter.mp hd).2
    rcases List.mem_append.mp hc with hc | hc
    · have := of_decide_eq_true (List.mem_filter.mp hc).2
      omega
    · have := Memory.entries_ge bs a c hc
      omega

/-- Where the entries of a store lie. -/
theorem Memory.mem_store (m : Memory) (a : Nat) (bs : List Byte) (c : Host.Cell)
    (h : c ∈ Memory.store m a bs) : c ∈ m ∨ (a ≤ c.1 ∧ c.1 < a + bs.length) := by
  rw [Memory.store, List.mem_append, List.mem_append] at h
  rcases h with (h | h) | h
  · exact .inl (List.mem_filter.mp h).1
  · exact .inr (Memory.entries_ge bs a c h)
  · exact .inl (List.mem_filter.mp h).1

/-- A store over the same block replaces the earlier one. -/
theorem Memory.store_store (m : Memory) (a : Nat) (bs cs : List Byte) (h : bs.length = cs.length) :
    Memory.store (Memory.store m a bs) a cs = Memory.store m a cs := by
  have below : (Memory.entries a bs).filter (fun c => decide (c.1 < a)) = [] :=
    List.filter_eq_nil_iff.mpr fun c hc => by
      have := Memory.entries_ge bs a c hc; simp; omega
  have above : (Memory.entries a bs).filter (fun c => decide (a + cs.length ≤ c.1)) = [] :=
    List.filter_eq_nil_iff.mpr fun c hc => by
      have := Memory.entries_ge bs a c hc; simp; omega
  have lowHigh : ∀ c : Host.Cell, (decide (c.1 < a) && decide (a + cs.length ≤ c.1)) = false := by
    intro c; rw [Bool.and_eq_false_iff]; by_cases h : c.1 < a
    · right; simp; omega
    · left; simp; omega
  simp only [Memory.store, h, List.filter_append, List.filter_filter, below, above, Bool.and_self]
  have e1 : m.filter (fun c => decide (c.1 < a) && decide (a + cs.length ≤ c.1)) = [] :=
    List.filter_eq_nil_iff.mpr fun c _ => by simp [lowHigh c]
  have e2 : m.filter (fun c => decide (a + cs.length ≤ c.1) && decide (c.1 < a)) = [] :=
    List.filter_eq_nil_iff.mpr fun c _ => by rw [Bool.and_comm]; simp [lowHigh c]
  rw [e1, e2]
  simp

/-! ### Reading -/

theorem Memory.loadWalk_length (fill : Nat → Byte) (len : Nat) (m : Memory) (a : Nat) :
    (Memory.loadWalk fill len m a).length = len := by
  induction len generalizing m a with
  | zero => cases m <;> rfl
  | succ len ih =>
    cases m with
    | nil => simp [Memory.loadWalk, ih]
    | cons c m => obtain ⟨k, v⟩ := c; rw [Memory.loadWalk]; split <;> simp [ih]

/-- Entries before the offset do not matter to a walk, so an entry that has been passed may be dropped. -/
theorem Memory.byteOr_cons_ne (fill : Nat → Byte) (k : Nat) (v : Byte) (m : Memory) (a : Nat) (h : k ≠ a) :
    Memory.byteOr fill ((k, v) :: m) a = Memory.byteOr fill m a := by
  simp [Memory.byteOr, Memory.byte?_cons, h]

/-- A walk reads byte by byte. -/
theorem Memory.loadWalk_eq (fill : Nat → Byte) (len : Nat) (m : Memory) (a : Nat) :
    Memory.loadWalk fill len m a = (List.range len).map fun k => Memory.byteOr fill m (a + k) := by
  induction len generalizing m a with
  | zero => cases m <;> rfl
  | succ len ih =>
    rw [List.range_succ_eq_map, List.map_cons, List.map_map]
    cases m with
    | nil =>
      rw [Memory.loadWalk, ih]
      simp [Memory.byteOr, Memory.byte?, Function.comp_def, Nat.add_assoc, Nat.add_comm 1]
    | cons c m =>
      obtain ⟨k, v⟩ := c
      rw [Memory.loadWalk]
      by_cases h : k = a
      · subst h
        rw [if_pos rfl, ih]
        refine congrArg₂ List.cons (by simp [Memory.byteOr, Memory.byte?_cons]) ?_
        refine List.map_congr_left fun j _ => ?_
        rw [Function.comp_apply, Memory.byteOr_cons_ne _ _ _ _ _ (by omega), Nat.succ_eq_add_one,
          Nat.add_assoc, Nat.add_comm 1]
      · rw [if_neg h, ih]
        simp [Function.comp_def, Nat.add_assoc, Nat.add_comm 1]

/-- Reading a block reads byte by byte. -/
theorem Memory.load_eq (fill : Nat → Byte) (m : Memory) (a len : Nat) :
    Memory.load fill m a len = (List.range len).map fun k => Memory.byteOr fill m (a + k) := by
  rw [Memory.load, Memory.loadWalk_eq]
  refine List.map_congr_left fun k hk => ?_
  have h := Memory.byte?_filter (fun x => decide (a ≤ x) && decide (x < a + len)) m (a + k)
  rw [Memory.byteOr, Memory.byteOr, h, if_pos (by simp; exact List.mem_range.mp hk)]

theorem State.loadBytes_eq (s : State) (a len : Nat) :
    s.loadBytes a len = (List.range len).map fun k => s.byteAt (a + k) := Memory.load_eq _ _ _ _

/-- What a store does to every byte of the RAM. -/
theorem State.byteAt_storeBytes (s : State) (b : Nat) (bs : List Byte) (a : Nat) :
    (s.storeBytes b bs).byteAt a
      = if b ≤ a ∧ a < b + bs.length then (bs[a - b]?).getD 0 else s.byteAt a := by
  rw [State.byteAt, Memory.byteOr, State.storeBytes_mem, Memory.byte?_store]
  by_cases h : b ≤ a ∧ a < b + bs.length
  · rw [if_pos h, if_pos h, List.getElem?_eq_getElem (by omega)]; rfl
  · rw [if_neg h, if_neg h]; rfl

/-- The bytes of the RAM depend on the stored bytes and the reset number alone. -/
theorem State.byteAt_congr {s t : State} (hm : t.mem = s.mem) (he : t.epoch = s.epoch) (a : Nat) :
    t.byteAt a = s.byteAt a := by rw [State.byteAt, State.byteAt, hm, he]

/-! ### Cells -/

@[simp] theorem cellsOfBytes_length (n : Nat) (bs : List Byte) : (cellsOfBytes n bs).length = n := by
  induction n generalizing bs with
  | zero => rfl
  | succ n ih => simp [cellsOfBytes, ih]

@[simp] theorem State.loadCells_length (s : State) (base n : Nat) : (s.loadCells base n).length = n := by
  simp [State.loadCells]

theorem cellsOfBytes_eq (f : Nat → Byte) (n : Nat) :
    ∀ base, cellsOfBytes n ((List.range (8 * n)).map fun k => f (base + k))
      = (List.range n).map fun i => BitVec.ofNat 64 (ofLeBytes ((List.range 8).map fun k => f (base + 8 * i + k))) := by
  induction n with
  | zero => intro; rfl
  | succ n ih =>
    intro base
    have split8 : (List.range (8 * (n + 1))).map (fun k => f (base + k))
        = ((List.range 8).map fun k => f (base + k)) ++ (List.range (8 * n)).map fun k => f (base + 8 + k) := by
      rw [show 8 * (n + 1) = 8 + 8 * n by ring, List.range_add, List.map_append, List.map_map]
      simp [Function.comp_def, Nat.add_assoc]
    have l8 : ((List.range 8).map fun k => f (base + k)).length = 8 := by simp
    rw [cellsOfBytes, split8, List.take_left' l8, List.drop_left' l8, ih (base + 8),
      List.range_succ_eq_map (n := n), List.map_cons, List.map_map]
    refine congrArg₂ List.cons rfl (List.map_congr_left fun i _ => ?_)
    simp only [Function.comp_apply, Nat.succ_eq_add_one]
    rw [show base + 8 + 8 * i = base + 8 * (i + 1) by ring]

/-- Reading cells in one walk reads them one by one. -/
theorem State.loadCells_eq (s : State) (base n : Nat) :
    s.loadCells base n = (List.range n).map (s.cellAt base) := by
  rw [State.loadCells, State.loadBytes_eq, cellsOfBytes_eq s.byteAt n base]
  rfl

theorem State.coefs_eq (s : State) (b : Fin 4) : s.coefs b = (List.range s.len).map (s.coef b) := by
  rw [State.coefs, State.loadCells_eq, List.map_map]; rfl

theorem State.twiddles_eq (s : State) (t : Table) : s.twiddles t = (List.range s.len).map (s.twiddle t) := by
  rw [State.twiddles, State.loadCells_eq, List.map_map]; rfl

theorem cellBytes_length (cs : List Dword) : (cs.flatMap fun c => leBytes 8 c.toNat).length = 8 * cs.length := by
  induction cs with
  | nil => rfl
  | cons c cs ih => simp [ih]; omega

theorem cellBytes_get (cs : List Dword) (i k : Nat) (hi : i < cs.length) (hk : k < 8) :
    (cs.flatMap fun c => leBytes 8 c.toNat)[8 * i + k]? = (leBytes 8 (cs[i]).toNat)[k]? := by
  induction cs generalizing i with
  | nil => simp at hi
  | cons c cs ih =>
    rw [List.flatMap_cons]
    cases i with
    | zero => rw [List.getElem?_append_left (by simp; omega)]; simp
    | succ i =>
      rw [List.getElem?_append_right (by simp; omega)]
      have := ih i (by simpa using hi)
      simpa [show 8 * (i + 1) + k - 8 = 8 * i + k by omega] using this

/-- A store of cells leaves every byte outside them alone. -/
theorem State.byteAt_storeCells_outside (s : State) (base : Nat) (cs : List Dword) (a : Nat)
    (h : a < base ∨ base + 8 * cs.length ≤ a) : (s.storeCells base cs).byteAt a = s.byteAt a := by
  rw [State.storeCells, State.byteAt_storeBytes, cellBytes_length, if_neg (by omega)]

/-- A cell read after a store of cells is the cell stored. -/
theorem State.cellAt_storeCells (s : State) (base : Nat) (cs : List Dword) (i : Nat) (hi : i < cs.length) :
    (s.storeCells base cs).cellAt base i = cs[i] := by
  have bytes : ((List.range 8).map fun k => (s.storeCells base cs).byteAt (base + 8 * i + k))
      = leBytes 8 (cs[i]).toNat := by
    refine List.ext_getElem? fun k => ?_
    by_cases hk : k < 8
    · rw [List.getElem?_map, List.getElem?_range hk, Option.map_some, State.storeCells, State.byteAt_storeBytes,
        cellBytes_length, if_pos (by omega), show base + 8 * i + k - base = 8 * i + k by omega,
        cellBytes_get cs i k hi hk, List.getElem?_eq_getElem (by simpa using hk)]
      rfl
    · rw [List.getElem?_eq_none (by simp; omega), List.getElem?_eq_none (by simp; omega)]
  rw [State.cellAt, bytes, cell_of_leBytes]

/-- A cell all of whose bytes are as before is as before. -/
theorem State.cellAt_congr {s t : State} {base i base' i' : Nat}
    (h : ∀ k < 8, t.byteAt (base + 8 * i + k) = s.byteAt (base' + 8 * i' + k)) :
    t.cellAt base i = s.cellAt base' i' := by
  rw [State.cellAt, State.cellAt]
  exact congrArg (fun l => BitVec.ofNat 64 (ofLeBytes l)) (List.map_congr_left fun k hk => h k (List.mem_range.mp hk))

/-- The two words of a cell are its halves, the low one first (R92, R95). -/
theorem State.words_of_cellAt (s : State) (base i : Nat) :
    BitVec.ofNat 32 (ofLeBytes (s.loadBytes (base + 8 * i) 4)) = (s.cellAt base i).extractLsb' 0 32
      ∧ BitVec.ofNat 32 (ofLeBytes (s.loadBytes (base + 8 * i + 4) 4)) = (s.cellAt base i).extractLsb' 32 32 := by
  rw [State.loadBytes_eq, State.loadBytes_eq, State.cellAt]
  simp only [List.range_succ, List.range_zero, List.map_nil, List.map_cons, List.nil_append, List.cons_append,
    ofLeBytes, Nat.add_zero, Nat.add_assoc, Nat.reduceAdd]
  constructor <;>
  · apply BitVec.eq_of_toNat_eq
    simp only [BitVec.toNat_ofNat, BitVec.extractLsb'_toNat, Nat.shiftRight_eq_div_pow]
    omega

end Sys2Proof.Machine
end

