-- ==== Sys2Proof/Laws/Commands.lean ====
section
/-! SUPPORT. What each shared operation of the commands can do, said once: the sequences' lengths and entries, the
template of the bank commands, reading back what a command wrote, the point registers and the digit loop. -/

namespace Sys2Proof.Machine

/-! ### Checks -/

/-- What a passed check gives (R154). -/
theorem State.modulusOk_iff (s : State) :
    s.modulusOk = true ↔
      s.ctrl.rmode ≠ 3 ∧ s.ctrl.tier ≠ 3 ∧ 2 ≤ s.modulus ∧ s.modulus < 2 ^ (s.width - 1) := by
  simp [State.modulusOk, and_assoc]

theorem State.lengthOk_iff (s : State) : s.lengthOk = true ↔ 1 ≤ s.logn ∧ s.logn ≤ 10 := by
  rw [State.lengthOk, Bool.and_eq_true, decide_eq_true_eq, decide_eq_true_eq, Config.logNMax]

theorem State.nttCheck_scalar (s : State) : s.nttCheck .scalar = s.modulusOk := rfl

theorem State.nttCheck_length (s : State) : s.nttCheck .length = (s.modulusOk && s.lengthOk) := rfl

theorem State.nttCheck_tables (s : State) :
    s.nttCheck .tables = (s.modulusOk && s.lengthOk && s.status.pvalid) := rfl

/-- Level 2 includes level 1 (R154). -/
theorem State.nttCheck_length_of_tables {s : State} (h : s.nttCheck .tables = true) : s.nttCheck .length = true := by
  rw [State.nttCheck_tables, Bool.and_eq_true] at h; exact h.1

theorem State.modulusOk_of_check {s : State} {l : CheckLevel} (h : s.nttCheck l = true) : s.modulusOk = true := by
  cases l with
  | scalar => exact h
  | length => rw [State.nttCheck_length, Bool.and_eq_true] at h; exact h.1
  | tables => rw [State.nttCheck_tables, Bool.and_eq_true, Bool.and_eq_true] at h; exact h.1.1

/-- A legal tier has 16, 32 or 64 bits (R33). -/
theorem tierWidth_cases {t : BitVec 2} (h : t ≠ 3) : tierWidth t = 16 ∨ tierWidth t = 32 ∨ tierWidth t = 64 := by
  revert h; revert t; decide

theorem State.width_pos {s : State} (h : s.modulusOk = true) : 0 < s.width ∧ s.width ≤ 64 := by
  have := tierWidth_cases ((State.modulusOk_iff s).mp h).2.1
  rw [State.width]; omega

/-- W by TIER (R33). -/
theorem State.width_of_tier {s : State} (h : s.ctrl.tier ≠ 3) :
    s.width = if s.ctrl.tier = 0 then 16 else if s.ctrl.tier = 1 then 32 else 64 := by
  rw [State.width]
  generalize s.ctrl.tier = t at *
  revert t; decide

/-- The transform length is at most 1024 cells (R57). -/
theorem State.len_le {s : State} (h : s.lengthOk = true) : s.len ≤ 1024 := by
  have := (State.lengthOk_iff s).mp h
  calc s.len = 2 ^ s.logn := rfl
    _ ≤ 2 ^ 10 := Nat.pow_le_pow_right (by norm_num) this.2

/-! ### Sequences -/

@[simp] theorem State.coefs_length (s : State) (b : Fin 4) : (s.coefs b).length = s.len := by
  simp [State.coefs_eq]

@[simp] theorem State.twiddles_length (s : State) (t : Table) : (s.twiddles t).length = s.len := by
  simp [State.twiddles_eq]

theorem State.coefs_getElem (s : State) (b : Fin 4) (i : Nat) (h : i < (s.coefs b).length) :
    (s.coefs b)[i] = s.coef b i := by
  simp [State.coefs_eq]

theorem State.twiddles_getElem (s : State) (t : Table) (i : Nat) (h : i < (s.twiddles t).length) :
    (s.twiddles t)[i] = s.twiddle t i := by
  simp [State.twiddles_eq]

@[simp] theorem pmulSeq_length (q : Nat) (a b : List Int) : (pmulSeq q a b).length = min a.length b.length := by
  simp [pmulSeq]

@[simp] theorem bitrevSeq_length (l : Nat) (a : List Int) : (bitrevSeq l a).length = 2 ^ l := by simp [bitrevSeq]

@[simp] theorem scaleSeq_length (q ninv : Nat) (a : List Int) : (scaleSeq q ninv a).length = a.length := by
  simp [scaleSeq]

@[simp] theorem reduceSeq_length (q : Nat) (a : List Int) : (reduceSeq q a).length = a.length := by simp [reduceSeq]

@[simp] theorem centerSeq_length (q : Nat) (a : List Int) : (centerSeq q a).length = a.length := by simp [centerSeq]

@[simp] theorem stageTwiddles_length (q half step : Nat) (tw : List Int) :
    (stageTwiddles q half step tw).length = half := by simp [stageTwiddles]

theorem butterfly_length (q : Nat) (ws u v : List Int) (h : Nat) (hw : ws.length = h) (hu : u.length = h)
    (hv : v.length = h) : (butterfly q ws u v).length = 2 * h := by
  simp [butterfly, hw, hu, hv]; omega

theorem blocks_length (q half : Nat) (ws : List Int) (hw : ws.length = half) (k : Nat) (v : List Int)
    (hv : v.length = 2 * half * k) : (blocks q half ws k v).length = v.length := by
  induction k generalizing v with
  | zero => simp [blocks, hv]
  | succ k ih =>
    have e : 2 * half * (k + 1) = 2 * half + 2 * half * k := by ring
    have hd : (v.drop (2 * half)).length = 2 * half * k := by rw [List.length_drop, hv, e]; omega
    have hb : (butterfly q ws (v.take half) ((v.drop half).take half)).length = 2 * half := by
      apply butterfly_length q _ _ _ half hw
      · rw [List.length_take, hv, e]; omega
      · rw [List.length_take, List.length_drop, hv, e]; omega
    rw [blocks, List.length_append, ih _ hd, hd, hb, hv, e]

theorem stages_length (q l : Nat) (tw : List Int) (k : Nat) (hk : k ≤ l) (v : List Int) (hv : v.length = 2 ^ l) :
    (stages q l tw k v).length = 2 ^ l := by
  induction k with
  | zero => simpa [stages] using hv
  | succ k ih =>
    have hs := ih (by omega)
    rw [stages, blocks_length _ _ _ (by simp), hs]
    rw [hs, ← pow_succ', ← pow_add]
    congr 1
    omega

@[simp] theorem xformSeq_length (q l : Nat) (tw a : List Int) (h : a.length = 2 ^ l) :
    (xformSeq q l tw a).length = 2 ^ l := stages_length q l tw l le_rfl _ (by simpa using h)

theorem nttfSeq_length (q l : Nat) (fwd a : List Int) : (nttfSeq q l fwd a).length = 2 ^ l :=
  xformSeq_length q l fwd _ (bitrevSeq_length l _)

theorem nttiSeq_length (q l ninv : Nat) (inv a : List Int) (h : inv.length = 2 ^ l) :
    (nttiSeq q l ninv inv a).length = 2 ^ l := by
  rw [nttiSeq, scaleSeq_length, pmulSeq_length, xformSeq_length q l inv _ (bitrevSeq_length l a), h, min_self]

theorem pmulSeq_getElem (q : Nat) (a b : List Int) (i : Nat) (h : i < (pmulSeq q a b).length) :
    (pmulSeq q a b)[i] = zmod q (a[i]'(by simp at h; omega) * b[i]'(by simp at h; omega)) := by
  simp [pmulSeq]

theorem bitrevSeq_getElem (l : Nat) (a : List Int) (i : Nat) (h : i < (bitrevSeq l a).length) :
    (bitrevSeq l a)[i] = a.getD (revBits l i) 0 := by
  simp [bitrevSeq]

/-- A reversed index stays below 2^l (R14). -/
theorem revBits_lt (l i : Nat) : revBits l i < 2 ^ l := by
  induction l generalizing i with
  | zero => simp [revBits]
  | succ l ih =>
    have := ih (i / 2)
    have h2 : i % 2 * 2 ^ l ≤ 1 * 2 ^ l := Nat.mul_le_mul_right _ (by omega)
    rw [revBits, pow_succ]
    omega

/-! ### The template of the bank commands -/

/-- Everything a bank command can do: the write at a passed check, PARAM alone otherwise. -/
theorem bankCommand_eq (l : CheckLevel) (d : Fin 4) (c : List Int) (s : State) :
    bankCommand l d c s = .next (if s.nttCheck l then (s.writeBank d c).complete .ok else s.complete .param) := by
  rw [bankCommand]; split <;> rfl

theorem bankCommand_ok {l : CheckLevel} {s : State} (h : s.nttCheck l = true) (d : Fin 4) (c : List Int) :
    bankCommand l d c s = .next ((s.writeBank d c).complete .ok) := by rw [bankCommand_eq, if_pos h]

/-- A written cell reads back. -/
theorem State.cellAt_writeBank (s : State) (d : Fin 4) (cs : List Int) (i : Nat) (h : i < cs.length) :
    (s.writeBank d cs).cellAt (bankBase d) i = sext64 (cs[i]) := by
  rw [State.writeBank, State.cellAt_storeCells _ _ _ _ (by simpa using h), List.getElem_map]

theorem State.byteAt_writeBank_outside (s : State) (d : Fin 4) (c : List Int) (a : Nat)
    (h : a < bankBase d ∨ bankBase d + 8 * c.length ≤ a) : (s.writeBank d c).byteAt a = s.byteAt a :=
  State.byteAt_storeCells_outside s _ _ a (by simpa using h)

@[simp] theorem State.byteAt_complete (s : State) (c : ErrCode) (a : Nat) : (s.complete c).byteAt a = s.byteAt a := rfl

@[simp] theorem State.cellAt_complete (s : State) (c : ErrCode) (b i : Nat) :
    (s.complete c).cellAt b i = s.cellAt b i := rfl

@[simp] theorem State.coef_complete (s : State) (c : ErrCode) (b : Fin 4) (i : Nat) :
    (s.complete c).coef b i = s.coef b i := rfl

@[simp] theorem State.coefs_complete (s : State) (c : ErrCode) (b : Fin 4) : (s.complete c).coefs b = s.coefs b := rfl

@[simp] theorem State.twiddles_complete (s : State) (c : ErrCode) (t : Table) :
    (s.complete c).twiddles t = s.twiddles t := rfl

/-- The result of a bank command whose check passes and whose sequence has n entries. -/
theorem bankResult_writeBank (s : State) (d : Fin 4) (c : List Int) (h : c.length = s.len) :
    BankResult s ((s.writeBank d c).complete .ok) d (fun i => c.getD i 0) := by
  refine ⟨rfl, fun i hi => ?_, fun a ha => ?_⟩
  · rw [State.cellAt_complete, State.cellAt_writeBank s d c i (h ▸ hi)]
    exact congrArg sext64 (List.getD_eq_getElem c 0 (h ▸ hi)).symm
  · rw [State.byteAt_complete, State.byteAt_writeBank_outside s d c a (by rw [h]; exact ha)]

/-- A coefficient written in range is the coefficient read (R8, R57). -/
theorem State.coef_writeBank {s : State} (hm : s.modulusOk = true) (d : Fin 4) (cs : List Int) (i : Nat)
    (h : i < cs.length) (h1 : -2 ^ (s.width - 1) ≤ cs[i]) (h2 : cs[i] < 2 ^ (s.width - 1)) :
    (s.writeBank d cs).coef d i = cs[i] := by
  have hw := State.width_pos hm
  rw [State.coef, State.cellAt_writeBank s d cs i h, State.writeBank_width, sint_sext64 hw.1 hw.2 h1 h2]

/-- Every residue fits a coefficient (R8). -/
theorem zmod_fits {s : State} (hm : s.modulusOk = true) (z : Int) :
    -2 ^ (s.width - 1) ≤ zmod s.modulus z ∧ zmod s.modulus z < 2 ^ (s.width - 1) := by
  obtain ⟨-, -, h2, h3⟩ := (State.modulusOk_iff s).mp hm
  have h0 := zmod_nonneg (m := s.modulus) (by omega) z
  have h1 := zmod_lt (m := s.modulus) (by omega) z
  have h4 : (s.modulus : Int) < 2 ^ (s.width - 1) := by exact_mod_cast h3
  have h5 : (0 : Int) < 2 ^ (s.width - 1) := by positivity
  omega

/-- The cells of Bank[d] lie below the tables. -/
theorem bankBase_bounds (d : Fin 4) : 0x10000 ≤ bankBase d ∧ bankBase d + 8 * 1024 ≤ 0x18000 := by
  have := d.isLt; rw [bankBase]; omega

/-! ### What decides a run of ROOTGEN -/

/-- Everything ROOTGEN can do once ψ is settled (R172). -/
theorem rootgenWith_cases (psi : Int) (s : State) :
    (∃ u v, invMod? s.modulus psi = some u ∧ invMod? s.modulus (s.len : Nat) = some v ∧
      rootgenWith psi s = State.finish
        { ((s.storeCells (tableBase .fwd) (powerCells s.modulus s.len psi)).storeCells (tableBase .inv)
            (powerCells s.modulus s.len u)).setPvalid true with
          nttRoot := BitVec.ofInt 64 psi, nttRootinv := BitVec.ofInt 64 u, nttNinv := BitVec.ofInt 64 v } .ok) ∨
    ((invMod? s.modulus psi = none ∨ invMod? s.modulus (s.len : Nat) = none) ∧
      rootgenWith psi s = (s.setPvalid false).finish .noinv) := by
  rw [rootgenWith]
  rcases h1 : invMod? s.modulus psi with _ | u <;> rcases h2 : invMod? s.modulus (s.len : Nat) with _ | v
  · exact .inr ⟨.inl rfl, rfl⟩
  · exact .inr ⟨.inl rfl, rfl⟩
  · exact .inr ⟨.inr rfl, rfl⟩
  · exact .inl ⟨u, v, rfl, rfl, rfl⟩

@[simp] theorem powerCells_length (q n : Nat) (r : Int) : (powerCells q n r).length = n := by simp [powerCells]

theorem powerCells_getElem (q n : Nat) (r : Int) (i : Nat) (h : i < (powerCells q n r).length) :
    (powerCells q n r)[i] = BitVec.ofNat 64 (r.toNat ^ i % q) := by simp [powerCells, powMod]

/-! ### Doubling and addition -/

theorem zmod_mul_zmod (p : Nat) (u v : Int) : zmod p (u * zmod p v) = u * v % (p : Int) := by
  rw [zmod, zmod, Int.mul_emod, Int.emod_emod_of_dvd _ (dvd_refl _), ← Int.mul_emod]

/-- What `inv_P` answers, with 0 for a missing inverse (R156). -/
theorem invMod?_inverseOrMissing {p : Nat} (hp : 2 ≤ p) (v : Int) :
    InverseOrMissing p v ((invMod? p (zmod p v)).getD 0) (invMod? p (zmod p v)).isNone := by
  have hz : ((zmod p v).toNat : Int) = v % (p : Int) := Int.toNat_of_nonneg (zmod_nonneg (by omega) v)
  have hg : Nat.gcd (zmod p v).toNat p = Int.gcd v p := by rw [← Int.gcd_natCast_natCast, hz, Int.gcd_emod]
  rcases invMod?_cases p (zmod p v) hp with ⟨h, e⟩ | ⟨-, u, e, h1, h2, h3⟩
  · rw [zmod_zmod, hg] at h
    simp [InverseOrMissing, e, h]
  · rw [zmod_mul_zmod] at h3
    simp only [InverseOrMissing, e, Option.isNone_some, Option.getD_some, Bool.false_eq_true, if_false]
    exact ⟨by omega, h2, h3⟩

/-- Everything `ec_dbl` can answer (R263). -/
theorem ecDbl_doublesTo {p : Nat} (hp : 2 ≤ p) (a : Int) (pt : Affine) :
    DoublesTo p a pt.x pt.y (ecDbl p a pt).1.x (ecDbl p a pt).1.y (ecDbl p a pt).2 := by
  rw [DoublesTo, ecDbl]
  split
  · simp
  · refine ⟨_, _, invMod?_inverseOrMissing hp (2 * pt.y), rfl, ?_, rfl⟩
    simp only [ecChord, zmod]; congr 1; ring

/-- Everything `ec_add` can answer (R265). -/
theorem ecAdd_addsTo {p : Nat} (hp : 2 ≤ p) (a b : Affine) :
    AddsTo p a.x a.y b.x b.y (ecAdd p a b).1.x (ecAdd p a b).1.y (ecAdd p a b).2 :=
  ⟨_, _, invMod?_inverseOrMissing hp (b.x - a.x), rfl, rfl, rfl⟩

/-! ### The digit loop of ECMUL -/

/-- The loop touches no state but the cursor, RC_SYM, RC_REMAIN and DUMMY. -/
theorem ecmulLoop_frame (p : Nat) (a : Int) (base : Affine) (ys : List Symbol) (c : MulLoop) :
    ∃ cur y r d, (ecmulLoop p a base ys c).st = { c.st with cur := cur, rcSym := y, rcRemain := r, dummy := d } := by
  induction ys generalizing c with
  | nil => exact ⟨c.st.cur, c.st.rcSym, c.st.rcRemain, c.st.dummy, rfl⟩
  | cons y rest ih =>
    rw [ecmulLoop]
    obtain ⟨cur, y', r, d, h⟩ := ih (ecmulPass p a base y rest c)
    refine ⟨cur, y', r, d, ?_⟩
    rw [h, ecmulPass]
    split <;> rfl

/-- Pulling a loaded sequence to its end leaves the cursor empty and RC_SYM at its last symbol (R243). -/
theorem ecmulLoop_cursor (p : Nat) (a : Int) (base : Affine) (ys : List Symbol) (c : MulLoop) (h : ys ≠ []) :
    (ecmulLoop p a base ys c).st.cur = { c.st.cur with seq := [] } ∧
      (ecmulLoop p a base ys c).st.rcRemain = 0 ∧
      (ecmulLoop p a base ys c).st.rcSym = ys.getLast h := by
  induction ys generalizing c with
  | nil => exact absurd rfl h
  | cons y rest ih =>
    rw [ecmulLoop]
    have pass : ∀ c, (ecmulPass p a base y rest c).st.cur = { c.st.cur with seq := rest } ∧
        (ecmulPass p a base y rest c).st.rcSym = y ∧
        (ecmulPass p a base y rest c).st.rcRemain = BitVec.ofNat 10 rest.length := by
      intro c; rw [ecmulPass]; split <;> exact ⟨rfl, rfl, rfl⟩
    rcases rest with _ | ⟨y', rest⟩
    · obtain ⟨h1, h2, h3⟩ := pass c
      exact ⟨h1, h3, h2⟩
    · obtain ⟨h1, h2, h3⟩ := ih (ecmulPass p a base y (y' :: rest) c) (by simp)
      refine ⟨?_, h2, ?_⟩
      · rw [h1, (pass c).1]
      · rw [h3]; exact (List.getLast_cons (List.cons_ne_nil y' rest)).symm

/-! ### A completed command -/

/-- Every command completes: `exec` always answers a next state that is some state after `State.complete`. -/
theorem exec_completes (i : Instr) (s : State) : ∃ u c, exec i s = .next (State.complete u c) := by
  cases i with
  | nop => exact ⟨_, _, rfl⟩
  | muln => simp only [exec, execMuln]; split <;> exact ⟨_, _, rfl⟩
  | rootgen =>
    simp only [exec, execRootgen]
    split
    · split
      · split
        · rcases rootgenWith_cases _ s with ⟨u, v, -, -, h⟩ | ⟨-, h⟩ <;> rw [h] <;> exact ⟨_, _, rfl⟩
        · exact ⟨_, _, rfl⟩
      · rcases rootgenWith_cases (zmod s.modulus s.nttRoot.toNat) s with ⟨u, v, -, -, h⟩ | ⟨-, h⟩ <;>
          rw [h] <;> exact ⟨_, _, rfl⟩
    · exact ⟨_, _, rfl⟩
  | primroot =>
    simp only [exec, execPrimroot]
    split
    · split <;> exact ⟨_, _, rfl⟩
    · exact ⟨_, _, rfl⟩
  | pmul _ _ _ | twmul _ _ _ | bitrev _ _ | xform _ _ _ | scale _ _ | reduce _ _ | center _ _ | nttf _ _ | ntti _ _
  | polymul _ _ _ =>
    simp only [exec, execPmul, execTwmul, execBitrev, execXform, execScale, execReduce, execCenter, execNttf,
      execNtti, execPolymul, bankCommand_eq]
    split <;> exact ⟨_, _, rfl⟩
  | rcinit _ => simp only [exec, execRcinit]; split <;> exact ⟨_, _, rfl⟩
  | rcpull => simp only [exec, execRcpull]; split <;> exact ⟨_, _, rfl⟩
  | ecdbl _ _ => simp only [exec, execEcdbl]; split <;> exact ⟨_, _, rfl⟩
  | ecadd _ _ _ => simp only [exec, execEcadd]; split <;> exact ⟨_, _, rfl⟩
  | ecmul _ _ _ => simp only [exec, execEcmul]; split <;> exact ⟨_, _, rfl⟩

end Sys2Proof.Machine
end

