-- ==== Sys2Proof/Laws/Bus.lean ====
section
/-! SUPPORT. What a step, a host read and a host write can do, said once. -/

namespace Sys2Proof.Machine

/-! ### A step -/

/-- Everything a step can be (R16, R151, R340). -/
theorem step_nil {s : State} (h : s.inputs = []) : step s = engineTurn s := by rw [step, h]

theorem step_cons {s : State} {e : Event} {rest : List Event} (h : s.inputs = e :: rest) :
    step s = eventStep e { s with inputs := rest } := by rw [step, h]

theorem engineTurn_idle {s : State} (h : s.pend = none) : engineTurn s = .next s := by rw [engineTurn, h]

theorem engineTurn_pending {s : State} {w : Word} (h : s.pend = some w) : engineTurn s = executeWord w s := by
  rw [engineTurn, h]

theorem executeWord_ok {w : Word} {i : Instr} (h : decode w = .ok i) (s : State) : executeWord w s = exec i s := by
  rw [executeWord, h]

theorem executeWord_error {w : Word} {r : Illegal} (h : decode w = .error r) (s : State) :
    executeWord w s = .next (s.complete .illegal) := by rw [executeWord, h]; rfl

/-- The engine's turn always has a next state. -/
theorem engineTurn_next (s : State) : ∃ t, engineTurn s = .next t := by
  rcases h : s.pend with _ | w
  · exact ⟨s, engineTurn_idle h⟩
  · rw [engineTurn_pending h]
    rcases hd : decode w with r | i
    · exact ⟨_, executeWord_error hd s⟩
    · obtain ⟨u, c, he⟩ := exec_completes i s
      exact ⟨_, by rw [executeWord_ok hd, he]⟩

/-- Everything a step that goes on can have been: the engine's turn, a transaction of the window, or a reset. -/
theorem step_next_cases {s t : State} (h : step s = .next t) :
    (∃ u, (u = s ∨ ∃ rest, s.inputs = .engine :: rest ∧ u = { s with inputs := rest }) ∧ engineTurn u = .next t) ∨
    (∃ off size rest, s.inputs = .busRead off size :: rest ∧ inWindow off = true ∧
      t = State.hostRead { s with inputs := rest } off size) ∨
    (∃ off size v rest, s.inputs = .busWrite off size v :: rest ∧ inWindow off = true ∧
      t = State.hostWrite { s with inputs := rest } off size v) ∨
    (∃ rest, s.inputs = .reset :: rest ∧ t = State.onReset { s with inputs := rest }) := by
  rcases hi : s.inputs with _ | ⟨e, rest⟩
  · rw [step_nil hi] at h
    exact .inl ⟨s, .inl rfl, h⟩
  · rw [step_cons hi] at h
    cases e with
    | engine => exact .inl ⟨_, .inr ⟨rest, rfl, rfl⟩, h⟩
    | busRead off size =>
      rw [eventStep, busReadStep] at h
      split at h
      · next hw => cases h; exact .inr (.inl ⟨off, size, rest, rfl, hw, rfl⟩)
      · cases h
    | busWrite off size v =>
      rw [eventStep, busWriteStep] at h
      split at h
      · next hw => cases h; exact .inr (.inr (.inl ⟨off, size, v, rest, rfl, hw, rfl⟩))
      · cases h
    | reset =>
      cases h
      exact .inr (.inr (.inr ⟨rest, rfl, rfl⟩))

/-! ### The address map (R94) -/

theorem targetOf_control {off : Nat} (h : off < 0x100) : targetOf off = controlAt off controlMap := by
  rw [targetOf, if_pos h]

theorem targetOf_ec {off : Nat} (h1 : 0x1000 ≤ off) (h2 : off < 0x1600) :
    targetOf off = ecTarget (off - 0x1000) := by
  rw [targetOf, if_neg (by omega), if_neg (by omega), if_pos h2]

theorem targetOf_bank {off : Nat} (h1 : 0x10000 ≤ off) (h2 : off < 0x18000) : targetOf off = .bank := by
  rw [targetOf, if_neg (by omega), if_neg (by omega), if_neg (by omega), if_neg (by omega), if_pos h2]

theorem targetOf_table {off : Nat} (h1 : 0x18000 ≤ off) (h2 : off < 0x1C000) : targetOf off = .table := by
  rw [targetOf, if_neg (by omega), if_neg (by omega), if_neg (by omega), if_neg (by omega), if_neg (by omega),
    if_pos h2]

/-- No offset of the control block is a bank, a table or unmapped. -/
theorem controlAt_cases (off : Nat) (m : List (Nat × ControlReg)) :
    controlAt off m = .res ∨ ∃ r, (off, r) ∈ m ∧ controlAt off m = .control r := by
  induction m with
  | nil => exact .inl rfl
  | cons c m ih =>
    obtain ⟨o, r⟩ := c
    rw [controlAt]
    split
    · next h => subst h; exact .inr ⟨r, List.mem_cons_self, rfl⟩
    · rcases ih with ih | ⟨r', hm, ih⟩
      · exact .inl ih
      · exact .inr ⟨r', List.mem_cons_of_mem _ hm, ih⟩

/-- A word of the EC slots is a value word or a RES word. -/
theorem ecTarget_cases (rel : Nat) (h : rel < 0x600) :
    ecTarget rel = .res ∨ ∃ slot j, j < 18 ∧ ecTarget rel = .ecValue slot j := by
  have hs : rel / 128 < ecSlots.length := by
    show rel / 128 < 12
    omega
  rw [ecTarget, List.getElem?_eq_getElem hs]
  generalize ecSlots[rel / 128] = slot
  by_cases hj : rel % 128 / 4 < 18
  · cases slot <;> simp only [if_pos hj] <;>
      first
        | exact .inl trivial
        | exact .inr ⟨_, _, hj, rfl⟩
  · cases slot <;> simp only [if_neg hj] <;> exact .inl trivial

/-- Only the offsets of the banks are a bank (R94). -/
theorem targetOf_eq_bank_iff (off : Nat) : targetOf off = .bank ↔ 0x10000 ≤ off ∧ off < 0x18000 := by
  constructor
  · intro h
    by_cases h1 : off < 0x100
    · rw [targetOf_control h1] at h
      rcases controlAt_cases off controlMap with e | ⟨r, -, e⟩ <;> rw [e] at h <;> cases h
    · by_cases h2 : 0x1000 ≤ off ∧ off < 0x1600
      · rw [targetOf_ec h2.1 h2.2] at h
        rcases ecTarget_cases (off - 0x1000) (by omega) with e | ⟨slot, j, -, e⟩ <;> rw [e] at h <;> cases h
      · rw [targetOf, if_neg h1] at h
        split at h
        · cases h
        · rw [if_neg (by omega)] at h
          split at h
          · cases h
          · split at h
            · omega
            · split at h <;> cases h
  · rintro ⟨h1, h2⟩; exact targetOf_bank h1 h2

/-- Which offsets are unmapped (R94, R97). -/
theorem targetOf_eq_unmapped_iff (off : Nat) :
    targetOf off = .unmapped ↔
      (0x100 ≤ off ∧ off < 0x1000) ∨ (0x1600 ≤ off ∧ off < 0x10000) ∨ 0x1C000 ≤ off := by
  constructor
  · intro h
    by_cases h1 : off < 0x100
    · rw [targetOf_control h1] at h
      rcases controlAt_cases off controlMap with e | ⟨r, -, e⟩ <;> rw [e] at h <;> cases h
    · by_cases h2 : 0x1000 ≤ off ∧ off < 0x1600
      · rw [targetOf_ec h2.1 h2.2] at h
        rcases ecTarget_cases (off - 0x1000) (by omega) with e | ⟨slot, j, -, e⟩ <;> rw [e] at h <;> cases h
      · by_cases h3 : 0x10000 ≤ off ∧ off < 0x18000
        · rw [targetOf_bank h3.1 h3.2] at h; cases h
        · by_cases h4 : 0x18000 ≤ off ∧ off < 0x1C000
          · rw [targetOf_table h4.1 h4.2] at h; cases h
          · omega
  · intro h
    rw [targetOf]
    split
    · omega
    · split
      · rfl
      · split
        · omega
        · split
          · rfl
          · split
            · omega
            · split
              · omega
              · rfl

/-! ### Host transactions -/

/-- Everything a host write can do (R97, R101). -/
theorem hostWrite_cases (s : State) (off size : Nat) (v : Word) :
    (accessValid off size = false ∧ s.hostWrite off size v = s.setBuserr) ∨
    (accessValid off size = true ∧ s.busy = true ∧ targetOf off ≠ .control .status ∧
      s.hostWrite off size v = s.setOvr) ∨
    (accessValid off size = true ∧ (s.busy = false ∨ targetOf off = .control .status) ∧
      s.hostWrite off size v = s.writeTarget off v (targetOf off)) := by
  rw [State.hostWrite]
  cases hv : accessValid off size with
  | false => exact .inl ⟨rfl, by simp⟩
  | true =>
    right
    by_cases hb : s.busy = true ∧ targetOf off ≠ .control .status
    · exact .inl ⟨rfl, hb.1, hb.2, by simp [hb.1, hb.2]⟩
    · refine .inr ⟨rfl, ?_, ?_⟩
      · by_cases h : s.busy = true
        · exact .inr (by by_contra hn; exact hb ⟨h, hn⟩)
        · exact .inl (by simpa using h)
      · rw [if_neg (by simp), if_neg]
        simpa using hb

/-- Everything a host read can do (R97, R99, R102). -/
theorem hostRead_cases (s : State) (off size : Nat) :
    (accessValid off size = false ∧ s.hostRead off size = { s.setBuserr with rdata := 0 }) ∨
    (accessValid off size = true ∧ s.busy = true ∧ readableWhileBusy (targetOf off) = false ∧
      s.hostRead off size = { s with rdata := Config.busyRead s.draws, draws := s.draws + 1 }) ∨
    (accessValid off size = true ∧ (s.busy = false ∨ readableWhileBusy (targetOf off) = true) ∧
      s.hostRead off size = { s with rdata := s.readTarget off (targetOf off) }) := by
  rw [State.hostRead]
  cases hv : accessValid off size with
  | false => exact .inl ⟨rfl, by simp⟩
  | true =>
    right
    by_cases hb : s.busy = true ∧ readableWhileBusy (targetOf off) = false
    · exact .inl ⟨rfl, hb.1, hb.2, by simp [hb.1, hb.2]⟩
    · refine .inr ⟨rfl, ?_, ?_⟩
      · by_cases h : s.busy = true
        · exact .inr (by by_contra hn; exact hb ⟨h, by simpa using hn⟩)
        · exact .inl (by simpa using h)
      · rw [if_neg (by simp), if_neg]
        simpa using hb

end Sys2Proof.Machine
end

