-- ==== Sys2Proof/Laws/PerInstr.lean ====
section
/-! SUPPORT. Per-instruction facts about the command words: the encoder puts OPC in bits [7:0] (R121, R126), leaves
bits [31:15] zero (R121), and its word matches a row of R127's table. -/

namespace Sys2Proof.Laws.WordFields

/-- The encoder's word of a command has the command's OPC, a zero Z field, and is well formed. -/
def Statement (i : Instr) : Prop :=
  opcodeOf (encode i) = opcodeFor i ∧ (encode i).extractLsb' 15 17 = 0 ∧ wordWellFormed (encode i) = true

theorem nop : Statement .nop := by unfold Statement; decide

theorem muln : Statement .muln := by unfold Statement; decide

theorem rootgen : Statement .rootgen := by unfold Statement; decide

theorem primroot : Statement .primroot := by unfold Statement; decide

theorem pmul (rd rs1 rs2 : Fin 4) : Statement (.pmul rd rs1 rs2) := by
  unfold Statement
  revert rd rs1 rs2; decide

theorem twmul (rd rs1 : Fin 4) (t : Table) : Statement (.twmul rd rs1 t) := by
  unfold Statement
  cases t <;> (revert rd rs1; decide)

theorem bitrev (rd rs1 : Fin 4) : Statement (.bitrev rd rs1) := by
  unfold Statement
  revert rd rs1; decide

theorem xform (rd rs1 : Fin 4) (t : Table) : Statement (.xform rd rs1 t) := by
  unfold Statement
  cases t <;> (revert rd rs1; decide)

theorem scale (rd rs1 : Fin 4) : Statement (.scale rd rs1) := by
  unfold Statement
  revert rd rs1; decide

theorem reduce (rd rs1 : Fin 4) : Statement (.reduce rd rs1) := by
  unfold Statement
  revert rd rs1; decide

theorem center (rd rs1 : Fin 4) : Statement (.center rd rs1) := by
  unfold Statement
  revert rd rs1; decide

theorem nttf (rd rs1 : Fin 4) : Statement (.nttf rd rs1) := by
  unfold Statement
  revert rd rs1; decide

theorem ntti (rd rs1 : Fin 4) : Statement (.ntti rd rs1) := by
  unfold Statement
  revert rd rs1; decide

theorem polymul (rd rs1 rs2 : Fin 4) : Statement (.polymul rd rs1 rs2) := by
  unfold Statement
  revert rd rs1 rs2; decide

theorem rcinit (m : Coding) : Statement (.rcinit m) := by
  unfold Statement
  cases m <;> decide

theorem rcpull : Statement .rcpull := by unfold Statement; decide

theorem ecdbl (rd rs1 : Fin 4) : Statement (.ecdbl rd rs1) := by
  unfold Statement
  revert rd rs1; decide

theorem ecadd (rd rs1 rs2 : Fin 4) : Statement (.ecadd rd rs1 rs2) := by
  unfold Statement
  revert rd rs1 rs2; decide

theorem ecmul (rd rs1 : Fin 4) (m : Coding) : Statement (.ecmul rd rs1 m) := by
  unfold Statement
  cases m <;> (revert rd rs1; decide)

end Sys2Proof.Laws.WordFields
end

