-- ==== Sys2Proof/Tests/Slice0.lean ====
section
/-! SUPPORT. Tests: words written out from the encoding rules, one step on small states with the expected values of
spec/95_test_vectors.md, and for each statement with hypotheses a concrete state that meets them. -/

namespace Sys2Proof.Tests

open Sys2Proof Sys2Proof.Machine

/-! ### Helpers -/

/-- Whether a step goes on, to a state with a property. -/
def goesOn (o : Host.Outcome State Fault Refusal) (p : State → Bool) : Bool :=
  match o with
  | .next t => p t
  | _ => false

/-- The step that runs a command word, from a state in which it has just been accepted. -/
def run (s : State) (w : Nat) (p : State → Bool) : Bool := goesOn (step (s.withFetchWord 32 w)) p

/-- Reset with NTT parameters in tier 0 and PVALID = 0. -/
def params (q : Dword) (logn : BitVec 4) (root : Dword) : State :=
  { State.reset with nttQ := q, nttLogn := logn, nttRoot := root }

/-- Q = 12289 in a tier. -/
def tiered (tier : BitVec 2) : State := { params 12289 0 0 with ctrl := { rmode := 0, tier := tier, ie := false } }

/-- S17 of spec/95_test_vectors.md, after its ROOTGEN, with two polynomials in banks 0 and 1. -/
def s17with (a b : List Dword) : State :=
  { ((((params 17 2 2).storeCells 0x10000 a).storeCells 0x12000 b).storeCells 0x18000 [1, 2, 4, 8]).storeCells 0x1A000
      [1, 9, 13, 15] with
    nttRootinv := 9, nttNinv := 13
    status := { done := false, pvalid := true, errcode := .ok, ovr := false, buserr := false } }

/-- S17 with the polynomials of L2.4. -/
def s17 : State := s17with [1, 2, 3, 4] [5, 6, 7, 8]

/-- T97 of spec/95_test_vectors.md: P = 97, a = 2, a point in PT[0] and in PT[1], and a scalar of 12 bits. -/
def t97 (p q : Point) (k : EcWord) : State :=
  { State.reset with ecP := 97, ecA := 2, ecK := k, ecKbits := 12, pt := #v[p, q, ⟨0, 0⟩, ⟨0, 0⟩] }

/-- G of T97. -/
def g97 : Point := ⟨3, 12⟩

/-- T97 with G in PT[0] and 2G in PT[1]. -/
def t97g : State := t97 g97 ⟨64, 80⟩ 7

/-! ### Words, written out from R121 and R126 -/

theorem test_decode_nop : decode 0b0000000000000000_0_0_00_00_00_00000000 = .ok .nop := by decide
theorem test_decode_muln : decode 0b0000000000000000_0_0_00_00_00_00000001 = .ok .muln := by decide
theorem test_decode_rootgen : decode 0b0000000000000000_0_0_00_00_00_00000010 = .ok .rootgen := by decide
theorem test_decode_primroot : decode 0b0000000000000000_0_0_00_00_00_00000011 = .ok .primroot := by decide
theorem test_decode_pmul : decode 0b0000000000000000_0_0_11_10_01_00010000 = .ok (.pmul 1 2 3) := by decide
theorem test_decode_twmul : decode 0b0000000000000000_0_1_00_10_01_00010001 = .ok (.twmul 1 2 .inv) := by decide
theorem test_decode_bitrev : decode 0b0000000000000000_0_0_00_10_01_00010010 = .ok (.bitrev 1 2) := by decide
theorem test_decode_xform : decode 0b0000000000000000_0_1_00_10_01_00010011 = .ok (.xform 1 2 .inv) := by decide
theorem test_decode_scale : decode 0b0000000000000000_0_0_00_10_01_00010100 = .ok (.scale 1 2) := by decide
theorem test_decode_reduce : decode 0b0000000000000000_0_0_00_10_01_00010101 = .ok (.reduce 1 2) := by decide
theorem test_decode_center : decode 0b0000000000000000_0_0_00_10_01_00010110 = .ok (.center 1 2) := by decide
theorem test_decode_nttf : decode 0b0000000000000000_0_0_00_10_01_00011000 = .ok (.nttf 1 2) := by decide
theorem test_decode_ntti : decode 0b0000000000000000_0_0_00_10_01_00011001 = .ok (.ntti 1 2) := by decide
theorem test_decode_polymul : decode 0b0000000000000000_0_0_11_10_01_00011010 = .ok (.polymul 1 2 3) := by decide
theorem test_decode_rcinit : decode 0b0000000000000000_0_1_00_00_00_00100000 = .ok (.rcinit .bin) := by decide
theorem test_decode_rcpull : decode 0b0000000000000000_0_0_00_00_00_00100001 = .ok .rcpull := by decide
theorem test_decode_ecdbl : decode 0b0000000000000000_0_0_00_10_01_00110000 = .ok (.ecdbl 1 2) := by decide
theorem test_decode_ecadd : decode 0b0000000000000000_0_0_11_10_01_00110001 = .ok (.ecadd 1 2 3) := by decide
theorem test_decode_ecmul : decode 0b0000000000000000_0_1_00_10_01_00110010 = .ok (.ecmul 1 2 .bin) := by decide

/-- The words of L2.1 that the decoder refuses, by reason. -/
theorem test_decode_refuses :
    ([0x0100, 0x4018, 0x3012, 0x7F13, 0x4010, 0x0120, 0x4021, 0x7332, 0x8000, 0x80000001] : List Word).all
        (fun w => decode w == .error .mustBeZero) = true
      ∧ ([0x0017, 0x001B, 0xFFFFFFFF] : List Word).all (fun w => decode w == .error .reservedOpcode) = true := by
  decide

/-- The smoke test of the check on words: each must-be-zero field and a reserved opcode is refused. -/
theorem test_wellformed_refuses :
    ([0x0100, 0x0400, 0x1012, 0x4010, 0x1013, 0x8010, 0x0120, 0x80000001, 0x0017] : List Word).all
      (fun w => !wordWellFormed w) = true := by decide

/-- No two rows of R127 have a word in common: their patterns differ in OPC, which every mask selects. -/
theorem test_patterns_are_disjoint :
    (patternTable.map fun r => r.pattern).Pairwise (· ≠ ·) ∧ patternTable.all (fun r => r.mask &&& 0xFF == 0xFF) := by
  decide

theorem test_table_word : decodeTableWord 32 0x4F13 = some (.xform 3 3 .inv) := by decide

/-! ### One step of each command (L2.2 to L2.9) -/

theorem test_nop : run State.reset 0x00 (fun t => t.statusWord == 0x2) = true := by decide

/-- L2.3, one row of each tier: −1 · 1, −1 · −1, and −2^63 · −2^63. -/
theorem test_muln :
    run { params 12289 0 0 with mulnX := 0xFFFF, mulnY := 1 } 0x01 (fun t => t.mulnR == 12288) = true
      ∧ run { tiered 1 with mulnX := 0xFFFFFFFF, mulnY := 0xFFFFFFFF } 0x01 (fun t => t.mulnR == 1) = true
      ∧ run { tiered 2 with mulnX := 0x8000000000000000, mulnY := 0x8000000000000000 } 0x01 (fun t => t.mulnR == 7796)
        = true := by decide

theorem test_muln_param : run { params 1 0 0 with mulnR := 7 } 0x01
    (fun t => t.mulnR == 7 && t.statusWord == 0x26) = true := by decide

theorem test_rootgen : run (params 17 2 0) 0x02 (fun t => t.statusWord == 0xA && t.nttRoot == 2 && t.nttRootinv == 9
    && t.nttNinv == 13 && t.twiddles .fwd == [1, 2, 4, 8] && t.twiddles .inv == [1, 9, 13, 15]) = true := by decide

theorem test_rootgen_noinv : run { s17 with nttRoot := 34 } 0x02 (fun t => t.statusWord == 0x46 && t.nttRoot == 34
    && t.nttRootinv == 9) = true := by decide

theorem test_primroot : run (params 17 0 0) 0x03 (fun t => t.nttGen == 3 && t.statusWord == 0x2) = true := by decide

theorem test_primroot_noroot : run (params 8 0 0) 0x03 (fun t => t.nttGen == 0 && t.statusWord == 0x36) = true := by
  decide

theorem test_pmul : run s17 0x1210 (fun t => t.coefs 2 == [5, 12, 4, 15]) = true := by decide

theorem test_twmul_fwd : run s17 0x0211 (fun t => t.coefs 2 == [1, 4, 12, 15]) = true := by decide

theorem test_twmul_inv : run s17 0x4211 (fun t => t.coefs 2 == [1, 1, 5, 9]) = true := by decide

theorem test_bitrev : run (s17with [0xFFFFFFFFFFFFFFFF, 2, 0xFFFFFFFFFFFFFFFD, 0x10005] []) 0x0212
    (fun t => t.loadCells (bankBase 2) 4 == [0xFFFFFFFFFFFFFFFF, 0xFFFFFFFFFFFFFFFD, 2, 5]) = true := by decide

theorem test_xform_fwd : run s17 0x0213 (fun t => t.coefs 2 == [10, 12, 13, 3]) = true := by decide

theorem test_xform_inv : run s17 0x4213 (fun t => t.coefs 2 == [10, 3, 13, 12]) = true := by decide

/-- R199's loop as the statements write it, on the example of R199. -/
theorem test_xform_loop : (List.range 4).map (xformValue 17 2 (s17.twiddle .fwd) (s17.coef 0)) = [10, 12, 13, 3]
    ∧ (List.range 4).map (xformValue 17 2 (s17.twiddle .inv) (s17.coef 0)) = [10, 3, 13, 12] := by decide

theorem test_scale : run s17 0x0214 (fun t => t.coefs 2 == [13, 9, 5, 1]) = true := by decide

theorem test_reduce : run (s17with [0xFFFFFFFFFFFFFFFF, 17, 35, 0xFFFFFFFFFFFFFFEE] []) 0x0215
    (fun t => t.coefs 2 == [16, 0, 1, 16]) = true := by decide

theorem test_center : run (s17with [16, 9, 8, 0xFFFFFFFFFFFFFFF7] []) 0x0216
    (fun t => t.coefs 2 == [-1, -8, 8, 8]) = true := by decide

theorem test_center_even : run { s17with [8, 9, 0, 15] [] with nttQ := 16 } 0x0216
    (fun t => t.coefs 2 == [8, -7, 0, -1]) = true := by decide

theorem test_nttf : run s17 0x0218 (fun t => t.coefs 2 == [15, 13, 11, 16]) = true := by decide

theorem test_nttf_param : run { s17 with status := { s17.status with pvalid := false } } 0x0218
    (fun t => t.statusWord == 0x26 && t.mem == s17.mem) = true := by decide

theorem test_ntti : run (s17with [15, 13, 11, 16] []) 0x0219 (fun t => t.coefs 2 == [1, 2, 3, 4]) = true := by decide

theorem test_polymul : run s17 0x121A (fun t => t.coefs 2 == [12, 15, 2, 9]) = true := by decide

theorem test_rcinit_naf : run { State.reset with ecK := 0x107, ecKbits := 8 } 0x0020
    (fun t => t.cur.seq == [.high, .low, .low, .minusOne] && t.rcCount == 4) = true := by decide +kernel

theorem test_rcinit_bin : run { State.reset with ecK := 29, ecKbits := 8 } 0x4020
    (fun t => t.cur.seq == [.high, .high, .high, .low, .high] && t.rcRemain == 5) = true := by decide +kernel

theorem test_rcpull : run { State.reset with cur := { mode := .naf, seq := [.minusOne, .low] } } 0x0021
    (fun t => t.rcSym == .minusOne && t.rcRemain == 1 && t.cur.seq == [.low]) = true := by decide

theorem test_rcpull_empty : run State.reset 0x0021 (fun t => t.statusWord == 0x56) = true := by decide

theorem test_ecdbl : run t97g 0x0230 (fun t => t.pt[2] == ⟨64, 80⟩ && t.statusWord == 0x2) = true := by decide +kernel

theorem test_ecdbl_noinv : run (t97 ⟨7, 0⟩ g97 0) 0x0230 (fun t => t.pt[2] == ⟨83, 0⟩ && t.statusWord == 0x46) = true :=
  by decide +kernel

theorem test_ecadd : run t97g 0x1231 (fun t => t.pt[2] == ⟨18, 81⟩ && t.statusWord == 0x2) = true := by decide +kernel

theorem test_ecadd_noinv : run (t97 g97 ⟨3, 85⟩ 0) 0x1231 (fun t => t.pt[2] == ⟨91, 85⟩ && t.statusWord == 0x46) = true :=
  by decide +kernel

theorem test_ecmul_naf : run t97g 0x0232 (fun t => t.pt[2] == ⟨10, 8⟩ && t.statusWord == 0x2 && t.rcCount == 4) = true :=
  by decide +kernel

/-- 101·G, where a real addition has no inverse, and 100·G, where only a dummy addition has none (L2.9). -/
theorem test_ecmul_noinv :
    run (t97 g97 g97 101) 0x4232 (fun t => t.pt[2] == ⟨91, 12⟩ && t.statusWord == 0x46 && t.rcCount == 7) = true
      ∧ run (t97 g97 g97 100) 0x0232 (fun t => t.pt[2] == ⟨3, 85⟩ && t.statusWord == 0x46 && t.rcCount == 8) = true := by
  decide +kernel

/-- The first pass of L2.9's trace of 7·G as the statements write it: 2G, and the dummy addition 2G + G = 3G. -/
theorem test_digit_loop : DigitLoop 97 2 3 12 [0] 3 12 ⟨0, 0⟩ 64 80 ⟨18, 81⟩ false :=
  ⟨64, 80, 18, 81, false, false, false,
    ⟨93, 78, ⟨by decide, by decide, by decide⟩, by decide, by decide, by decide⟩,
    ⟨62, 52, ⟨by decide, by decide, by decide⟩, by decide, by decide, by decide⟩,
    ⟨rfl, rfl, by decide +kernel, rfl⟩, rfl⟩

/-- The informational registers of the reference modulus (R44, R45, R46). -/
theorem test_informational : barrettConstant 0 12289 = 87374 ∧ invqDouble 12289 = 0x3F1554E39097A782
    ∧ invqFloat 12289 = 0x38AAA71D := by decide

/-- What PMUL wrote into cell 3 of Bank[2] as the host reads it, both words (L2.4, R95). -/
theorem test_bank_read : run (s17with [0, 0, 0, 4] [0, 0, 0, 8]) 0x1210
    (fun t => (t.hostRead 0x14018 4).rdata == 15 && (t.hostRead 0x1401C 4).rdata == 0) = true := by decide

/-- A busy block drops a parameter write and shows it (L3.5). -/
theorem test_busy_write : (State.hostWrite (State.accept State.reset 3) 0x014 4 3).statusWord = 0x101 := by decide

/-! ### States that meet the hypotheses of the statements -/

/-- S17 with a command pending. -/
def pending (w : Word) : State := s17.accept w

/-- A state whose next event is the platform's reset. -/
def resetting : State := { (pending 0x0218) with inputs := [.reset] }

/-- Every command has a next state, so a hypothesis `exec i s = .next t` is met by every `i` and `s`. -/
theorem witness_exec (i : Instr) (s : State) : ∃ t, exec i s = .next t := by
  obtain ⟨u, c, h⟩ := exec_completes i s
  exact ⟨_, h⟩

theorem witness_EncodeOfDecode : decode 0x4F13 = .ok (.xform 3 3 .inv) := by decide

theorem witness_StepRunsTheDecodedCommand :
    (pending 0x0218).pend = some 0x0218 ∧ decode 0x0218 = .ok (.nttf 2 0) ∧ (pending 0x0218).inputs = []
      ∧ (State.withFetchWord { s17 with inputs := [.reset] } 32 0x0218).inputs = [.engine, .reset]
      ∧ (State.withFetchWord { s17 with inputs := [.reset] } 32 0x0218).pend = some 0x0218
      ∧ (s17.pend = none ∧ s17.inputs = [] ∧ { s17 with inputs := [.engine] }.inputs = .engine :: [])
      ∧ ((0x1BFFC : Nat) < 0x1C000 ∧ { s17 with inputs := [.busRead 0x1BFFC 4] }.inputs = .busRead 0x1BFFC 4 :: []
        ∧ ¬ (0x1C000 : Nat) < 0x1C000 ∧ { s17 with inputs := [.busRead 0x1C000 4] }.inputs = .busRead 0x1C000 4 :: [])
      ∧ ({ s17 with inputs := [.busWrite 0x14 4 3] }.inputs = .busWrite 0x14 4 3 :: []
        ∧ { s17 with inputs := [.busWrite 0x1C000 4 3] }.inputs = .busWrite 0x1C000 4 3 :: []
        ∧ { s17 with inputs := [.reset] }.inputs = .reset :: []) := by decide

/-- Through a step: a write of NTT_LOGN takes effect and clears PVALID, and a read returns its word (R38, R56, R103). -/
theorem test_bus_events :
    goesOn (step { s17 with inputs := [.busWrite 0x14 4 3] })
        (fun t => t.nttLogn == 3 && !t.status.pvalid && t.inputs == []) = true
      ∧ goesOn (step { s17 with inputs := [.busRead 0x020 4] }) (fun t => t.rdata == 17 && t.inputs == []) = true := by
  decide

theorem witness_IllegalWordChangesOnlyStatus :
    ((pending 0x17).pend = some 0x17 ∧ wordWellFormed 0x17 = false ∧ (pending 0x17).inputs = []
        ∧ { pending 0x17 with inputs := [.engine] }.inputs = .engine :: [])
      ∧ (pending 0x8000).pend = some 0x8000 ∧ wordWellFormed 0x8000 = false := by decide

theorem witness_OnlyCompletionSetsDoneAndErrcode :
    (∃ t, step (pending 0x8000) = .next t ∧ (pending 0x8000).status.done = false ∧ t.status.done = true
        ∧ t.status.errcode ≠ (pending 0x8000).status.errcode)
      ∧ ∃ t, step { resetting with status := { s17.status with errcode := .param } } = .next t
        ∧ t.status.errcode ≠ .param := ⟨⟨_, rfl, by decide⟩, ⟨_, rfl, by decide⟩⟩

theorem witness_PvalidIsSetOnlyByRootgen :
    (((params 17 2 0).accept 2).status.pvalid = false)
      ∧ goesOn (step ((params 17 2 0).accept 2)) (fun t => t.status.pvalid) = true := by decide

/-- One state for each item of R154, at the ends of its range, and the two ends of the legal moduli of tier 0. -/
theorem witness_NttCheckFailureIsParam :
    nttLevel (.nttf 0 0) = some .tables ∧ nttLevel .rootgen = some .length ∧ nttLevel .muln = some .scalar
      ∧ { s17 with ctrl := { rmode := 3, tier := 0, ie := false } }.ctrl.rmode = 3
      ∧ { s17 with ctrl := { rmode := 0, tier := 3, ie := false } }.ctrl.tier = 3
      ∧ (params 1 2 0).nttQ.toNat < 2
      ∧ 2 ^ ((params 32768 2 0).width - 1) ≤ (params 32768 2 0).nttQ.toNat
      ∧ (params 17 0 0).nttLogn.toNat < 1 ∧ 10 < (params 17 11 0).nttLogn.toNat
      ∧ (params 17 2 0).status.pvalid = false
      ∧ (params 2 0 0).nttCheck .scalar = true ∧ (params 32767 10 0).nttCheck .length = true
      ∧ (params 17 1 0).nttCheck .length = true ∧ s17.nttCheck .tables = true
      ∧ (tiered 0).ctrl.tier = 0 ∧ (tiered 1).ctrl.tier = 1 ∧ (tiered 2).ctrl.tier = 2
      ∧ 2 ^ (32 - 1) ≤ { tiered 1 with nttQ := 0x80000000 }.nttQ.toNat
      ∧ { tiered 1 with nttQ := 0x7FFFFFFF }.nttCheck .scalar = true
      ∧ 2 ^ (64 - 1) ≤ { tiered 2 with nttQ := 0x8000000000000000 }.nttQ.toNat
      ∧ { tiered 2 with nttQ := 0x7FFFFFFFFFFFFFFF }.nttCheck .scalar = true := by decide

theorem witness_EcCheckFailureIsParam :
    { t97g with ecP := 2 }.ecP.toNat < 3 ∧ 576 < { t97g with ecKbits := 577 }.ecKbits.toNat := by decide +kernel

theorem witness_NopOnlyCompletes : State.reset.status.pvalid = false ∧ State.reset.status.ovr = false
    ∧ State.reset.status.buserr = false := by decide

theorem witness_MulnWritesTheResidueOfTheProduct :
    (tiered 0).nttCheck .scalar = true ∧ (tiered 1).nttCheck .scalar = true ∧ (tiered 2).nttCheck .scalar = true
      ∧ State.reset.nttCheck .scalar = false := by decide

/-- Of 17 the least generator is 3; 8 has none. -/
theorem witness_PrimrootFindsTheLeastGenerator :
    ((params 17 0 0).nttCheck .scalar = true ∧ IsGenerator (params 17 0 0).nttQ.toNat 3
        ∧ ∀ g, g < 3 → ¬ IsGenerator (params 17 0 0).nttQ.toNat g)
      ∧ ((params 8 0 0).nttCheck .scalar = true ∧ ∀ g, ¬ IsGenerator (params 8 0 0).nttQ.toNat g)
      ∧ State.reset.nttCheck .scalar = false := by
  have h17 : (params 17 0 0).nttQ.toNat = 17 := by decide
  have h8 : (params 8 0 0).nttQ.toNat = 8 := by decide
  rw [h17, h8]
  refine ⟨⟨by decide, ⟨by decide, by decide, by decide, ?_⟩, ?_⟩, ⟨by decide, ?_⟩, by decide⟩
  · have : Fact (Nat.Prime 2) := ⟨by decide⟩
    have h : orderOf ((3 : Nat) : ZMod 17) = 2 ^ (3 + 1) := orderOf_eq_prime_pow (by decide) (by decide)
    rw [h]; decide
  · rintro g hg ⟨h2, -, -, ho⟩
    obtain rfl : g = 2 := by omega
    have h : orderOf ((2 : Nat) : ZMod 17) ∣ 8 := orderOf_dvd_of_pow_eq_one (by decide)
    rw [ho] at h
    revert h; decide
  · rintro g ⟨h2, h8', hc, ho⟩
    have h : orderOf ((g : Nat) : ZMod 8) ∣ 2 := orderOf_dvd_of_pow_eq_one (by
      revert g; intro g h2 h8' hc _
      interval_cases g <;> first | decide | (revert hc; decide))
    rw [ho] at h
    revert h; decide

theorem witness_PrimrootAndRootgenAreIndependent :
    (∃ t, exec .primroot s17 = .next t) ∧ ∃ t, exec .rootgen s17 = .next t := ⟨witness_exec _ _, witness_exec _ _⟩

/-- A root that is searched for, and one that is given. -/
theorem witness_RootgenFillsTheTables :
    ((params 17 2 0).nttCheck .length = true ∧ RootChosen (params 17 2 0) 2
        ∧ Nat.Coprime 2 (params 17 2 0).modulus ∧ Nat.Coprime (params 17 2 0).len (params 17 2 0).modulus)
      ∧ (params 17 2 35).nttCheck .length = true ∧ RootChosen (params 17 2 35) 1 := by
  refine ⟨⟨by decide, .inl ⟨by decide, by decide, by decide, by decide, fun m h1 h2 => by omega⟩, by decide, by decide⟩,
    by decide, .inr (by decide)⟩

theorem witness_RootgenFailures :
    ((params 13 2 0).nttCheck .length = true ∧ (params 13 2 0).nttRoot = 0
        ∧ ∀ m, 2 ≤ m → m ≤ (params 13 2 0).modulus - 2 →
          m ^ (params 13 2 0).len % (params 13 2 0).modulus ≠ (params 13 2 0).modulus - 1)
      ∧ ((params 17 2 34).nttCheck .length = true ∧ RootChosen (params 17 2 34) 0 ∧ ¬ Nat.Coprime 0 (params 17 2 34).modulus)
      ∧ (params 16 2 3).nttCheck .length = true ∧ RootChosen (params 16 2 3) 3
        ∧ ¬ Nat.Coprime (params 16 2 3).len (params 16 2 3).modulus := by
  refine ⟨⟨by decide, by decide, ?_⟩, ⟨by decide, .inr (by decide), by decide⟩, by decide, .inr (by decide), by decide⟩
  have hq : (params 13 2 0).modulus = 13 := by decide
  have hn : (params 13 2 0).len = 4 := by decide
  rw [hq, hn]
  intro m h1 h2
  interval_cases m <;> decide

/-- The two cases of every bank command: S17 passes the check of each level, the block after reset fails each. -/
theorem witness_bank (l : CheckLevel) : s17.nttCheck l = true ∧ State.reset.nttCheck l = false := by
  revert l; rintro (_ | _ | _) <;> decide

theorem witness_PmulMultipliesPointwise : s17.nttCheck .length = true ∧ State.reset.nttCheck .length = false :=
  witness_bank .length

theorem witness_TwmulMultipliesByTheTable : s17.nttCheck .tables = true ∧ State.reset.nttCheck .tables = false :=
  witness_bank .tables

theorem witness_BitrevPermutesTheCoefficients : s17.nttCheck .length = true ∧ State.reset.nttCheck .length = false :=
  witness_bank .length

theorem witness_ScaleMultipliesByNinv : s17.nttCheck .tables = true ∧ State.reset.nttCheck .tables = false :=
  witness_bank .tables

theorem witness_ReduceWritesResidues : s17.nttCheck .length = true ∧ State.reset.nttCheck .length = false :=
  witness_bank .length

theorem witness_CenterWritesCentredResidues : s17.nttCheck .length = true ∧ (∃ t, exec (.center 2 0) s17 = .next t)
    ∧ 3 < s17.len := ⟨by decide, witness_exec _ _, by decide⟩

theorem witness_TransformCommandsWriteTheirSequences :
    s17.nttCheck .tables = true ∧ State.reset.nttCheck .tables = false := witness_bank .tables

theorem witness_RevBitsReversesTheBits : 1023 < 2 ^ 10 ∧ 0 < 2 ^ 0 ∧ 9 < 10 := by decide

theorem witness_NttfIsItsPrimitiveSequence : s17.nttCheck .tables = true := by decide

theorem witness_NttiIsItsPrimitiveSequence : s17.nttCheck .tables = true := by decide

theorem witness_PolymulIsItsPrimitiveSequence :
    s17.nttCheck .tables = true ∧ (2 : Fin 4) ≠ 3 ∧ (2 : Fin 4) ≠ 1 := by decide

/-- S17's tables are those of ψ = 2, whose fourth power is −1. -/
theorem s17_tables : NegacyclicTables s17 := by
  unfold NegacyclicTables TablesMatch; decide +kernel

theorem witness_XformComputesTheDft : s17.nttCheck .tables = true ∧ NegacyclicTables s17 := ⟨by decide, s17_tables⟩

theorem witness_InverseTransformUndoesTheForward : s17.nttCheck .tables = true ∧ NegacyclicTables s17
    ∧ (s17.nttQ.toNat : Int) / 2 - s17.nttQ.toNat + 1 ≤ s17.coef 0 3 ∧ s17.coef 0 3 ≤ (s17.nttQ.toNat : Int) / 2 :=
  ⟨by decide, s17_tables, by decide⟩

theorem witness_PolymulIsNegacyclicConvolution : s17.nttCheck .tables = true ∧ NegacyclicTables s17
    ∧ (2 : Fin 4) ≠ 3 ∧ (2 : Fin 4) ≠ 1 := ⟨by decide, s17_tables, by decide, by decide⟩

theorem witness_ReductionModeChangesNothing :
    s17.ctrl.rmode ≠ 3 ∧ (2 : BitVec 2) ≠ 3 ∧ ∃ t, exec (.polymul 2 0 1) s17 = .next t :=
  ⟨by decide, by decide, witness_exec _ _⟩

theorem witness_RcinitLoadsTheCursor : { t97g with ecKbits := 576 }.ecKbits.toNat ≤ 576
    ∧ 576 < { t97g with ecKbits := 577 }.ecKbits.toNat := by decide +kernel

theorem witness_RecodingsAreSound : State.reset.busy = false ∧ 2 ^ 0 ≤ 1 ∧ 1 < 2 ^ (0 + 1) ∧ 2 ^ 11 ≤ 0xACB ∧ 0xACB < 2 ^ (11 + 1)
    ∧ 2 ^ 576 - 1 < 2 ^ 576 := by decide +kernel

theorem witness_RcpullPullsTheHead :
    { State.reset with cur := { mode := .bin, seq := [.high, .low] } }.cur.seq = .high :: [.low]
      ∧ State.reset.cur.seq = [] := by decide

theorem witness_PullsReturnTheRecoding :
    t97g.ecKbits.toNat ≤ 576 ∧ 3 < (recode (t97g.ecK.toNat % 2 ^ t97g.ecKbits.toNat) .naf).length := by decide +kernel

/-- P = 2; the identity (97, 0); G, whose 24 has the inverse 93; and (7, 0), whose 0 has none. -/
theorem witness_EcdblDoublesThePoint :
    { t97g with ecP := 2 }.ecP.toNat < 3 ∧ 3 ≤ t97g.ecP.toNat
      ∧ (((t97 ⟨97, 0⟩ g97 0).pt[0]).x.toNat % 97 = 0 ∧ ((t97 ⟨97, 0⟩ g97 0).pt[0]).y.toNat % 97 = 0)
      ∧ ((93 : Int) < 97 ∧ 93 * (2 * (((t97g.pt[0]).y.toNat : Int) % 97)) % 97 = 1)
      ∧ ((t97 ⟨7, 0⟩ g97 0).pt[0]).x.toNat % 97 ≠ 0
      ∧ Int.gcd (2 * ((((t97 ⟨7, 0⟩ g97 0).pt[0]).y.toNat : Int) % 97)) 97 ≠ 1 := by decide +kernel

/-- P = 2; G and 2G, whose difference 61 has the inverse 35; and G and −G, whose difference has none. -/
theorem witness_EcaddAddsThePoints :
    { t97g with ecP := 2 }.ecP.toNat < 3 ∧ 3 ≤ t97g.ecP.toNat
      ∧ ((35 : Int) < 97 ∧ 35 * (((t97g.pt[1]).x.toNat : Int) % 97 - ((t97g.pt[0]).x.toNat : Int) % 97) % 97 = 1)
      ∧ Int.gcd ((((t97 g97 ⟨3, 85⟩ 0).pt[1]).x.toNat : Int) % 97 - (((t97 g97 ⟨3, 85⟩ 0).pt[0]).x.toNat : Int) % 97) 97
        ≠ 1 := by decide +kernel

theorem witness_EcmulOfSmallScalars :
    3 ≤ { t97g with ecP := 3 }.ecP.toNat ∧ { t97g with ecKbits := 576 }.ecKbits.toNat ≤ 576
      ∧ (t97 g97 g97 0).ecK.toNat % 2 ^ (t97 g97 g97 0).ecKbits.toNat = 0
      ∧ (t97 g97 g97 1).ecK.toNat % 2 ^ (t97 g97 g97 1).ecKbits.toNat = 1
      ∧ (t97 g97 g97 2).ecK.toNat % 2 ^ (t97 g97 g97 2).ecKbits.toNat = 2 := by decide +kernel

/-- A scalar with digits, one with none, and one of two digits whose loop is `test_digit_loop`. -/
theorem witness_EcmulWritesOnlyItsResults :
    3 ≤ t97g.ecP.toNat ∧ t97g.ecKbits.toNat ≤ 576
      ∧ nafDigits (t97g.ecK.toNat % 2 ^ t97g.ecKbits.toNat) = [1, 0, 0, -1]
      ∧ binDigits ((t97 g97 g97 0).ecK.toNat % 2 ^ (t97 g97 g97 0).ecKbits.toNat) = []
      ∧ binDigits ((t97 g97 g97 2).ecK.toNat % 2 ^ (t97 g97 g97 2).ecKbits.toNat) = [1, 0] := by decide +kernel

/-- 97 is prime, G is a nonsingular point of y² = x³ + 2x + 14 over ℤ/97, and 7·G completes with OK. -/
theorem witness_EcmulIsScalarMultiplication :
    Nat.Prime 97 ∧ t97g.ecP.toNat = 97 ∧ (14 : ZMod 97) ≠ 0
      ∧ (shortCurve 97 (t97g.ecA.toNat : ZMod 97) 14).toAffine.Nonsingular
          ((t97g.pt[0]).x.toNat : ZMod 97) ((t97g.pt[0]).y.toNat : ZMod 97)
      ∧ ∃ t, exec (.ecmul 2 0 .naf) t97g = .next t ∧ t.status.errcode = .ok := by
  have ha : (t97g.ecA.toNat : ZMod 97) = 2 := by decide +kernel
  have hx : ((t97g.pt[0]).x.toNat : ZMod 97) = 3 := by decide +kernel
  have hy : ((t97g.pt[0]).y.toNat : ZMod 97) = 12 := by decide +kernel
  refine ⟨by norm_num, by decide +kernel, by decide, ?_, ?_⟩
  · rw [ha, hx, hy, WeierstrassCurve.Affine.nonsingular_iff, WeierstrassCurve.Affine.equation_iff]
    simp only [shortCurve, WeierstrassCurve.toAffine]
    decide
  · have h : goesOn (exec (.ecmul 2 0 .naf) t97g) (fun t => t.status.errcode == .ok) = true := by decide +kernel
    obtain ⟨t, ht⟩ := witness_exec (.ecmul 2 0 .naf) t97g
    rw [ht] at h
    exact ⟨t, ht, by simpa [goesOn] using h⟩

theorem witness_DummyPointIsNeverRead :
    (∃ t, step resetting = .next t) ∧ step { s17 with inputs := [.busRead 0x1C000 4] } = .fault (.outsideWindow 0x1C000) :=
  ⟨⟨_, rfl⟩, rfl⟩

/-- A wrong size, a misaligned offset, and the ends of the two unmapped ranges; the ends of the RES words. -/
theorem witness_InvalidAccessesSetOnlyBuserr :
    (0x1BFFF < 0x1C000 ∧ (2 : Nat) ≠ 4 ∧ (0x1BFFF : Nat) % 4 ≠ 0 ∧ 0x100 ≤ 0xFFF ∧ 0x1600 ≤ 0xFFFF)
      ∧ (s17.busy = false ∧ 0x084 ≤ 0x0FC ∧ 0x0FC < 0x100 ∧ 0x0FC % 4 = 0 ∧ 0x11FC < 0x1200 ∧ 72 ≤ 0x15FC % 128
        ∧ 72 ≤ 0x1048 % 128) := by decide

theorem witness_WritesWhileBusyAreDropped :
    (pending 0).busy = true ∧ accessValid 0x010 4 = true ∧ (0x010 : Nat) ≠ 0x00C ∧ accessValid 0x100 4 = false := by decide

theorem witness_ReadsWhileBusy :
    (pending 0).busy = true ∧ accessValid 0x014 4 = true ∧ accessValid 0x1BFFC 4 = true := by decide

theorem witness_CmdWriteIsAccepted : s17.busy = false ∧ (pending 0).busy = true := by decide

theorem witness_ParameterWritesClearPvalid :
    s17.busy = false ∧ s17.status.pvalid = true ∧ (pending 0).busy = true ∧ accessValid 0x028 2 = false := by decide

/-- The banks' ends; and a state that a bank command has just left is idle. -/
theorem witness_BankWordsReadBack :
    s17.busy = false ∧ 0x10000 ≤ 0x17FFC ∧ 0x17FFC < 0x18000 ∧ 0x17FFC % 4 = 0 ∧ 0x10000 % 4 = 0 ∧ 1023 < 1024
      ∧ goesOn (exec (.pmul 3 0 1) s17) (fun t => !t.busy) = true := by decide

theorem witness_EcWordsReadBack :
    s17.busy = false ∧ 0x1000 % 128 < 72 ∧ 0x15C4 < 0x1600 ∧ 0x15C4 % 4 = 0 ∧ 0x15C4 % 128 < 72
      ∧ ¬ (0x1180 ≤ 0x15C4 ∧ 0x15C4 < 0x1200) ∧ 0x1000 ≤ 0x15FC ∧ 0x15FC < 0x1600 ∧ 0x15FC ≠ 0x15C4
      ∧ 17 < 18 := by decide

theorem witness_RegistersReadAndTakeTheirWrites : s17.busy = false := by decide

theorem witness_TablesAreReadOnlyToTheHost : s17.busy = false ∧ 1023 < 1024 ∧ 0x18000 ≤ 0x18000
    ∧ s17.byteAt 0x18000 = 1 := by decide

theorem witness_ReadsHaveNoSideEffects : accessValid 0x18000 4 = true ∧ s17.busy = false := by decide

theorem witness_ReciprocalsAreRoundedToNearest : 1 ≤ 1 ∧ 2 ^ 64 - 1 < 2 ^ 64 := by decide

theorem witness_InterruptFollowsDoneAndIe :
    (∃ t, exec .nop s17 = .next t) ∧ (2 : Word).getLsbD 1 = true ∧ s17.busy = false :=
  ⟨witness_exec _ _, by decide, by decide⟩

theorem witness_ResetEventResetsEveryRegister : resetting.inputs = .reset :: [] := by decide

theorem witness_EveryStepKeepsTheShape : ShapeOk (pending 0x0218) ∧ ∃ t, step (pending 0x0218) = .next t := by
  refine ⟨?_, witness_exec (.nttf 2 0) (pending 0x0218)⟩
  refine ⟨by decide +kernel, by decide, ?_, by decide, by decide, by decide, by decide, by decide⟩
  intro w h
  cases h
  rfl

theorem witness_EveryStepKeepsPvalidSound :
    PvalidSound (pending 0x0218) ∧ (pending 0x0218).status.pvalid = true ∧ ∃ t, step (pending 0x0218) = .next t := by
  refine ⟨fun _ => ?_, by decide, witness_exec (.nttf 2 0) (pending 0x0218)⟩
  unfold TablesMatch; decide +kernel

end Sys2Proof.Tests
end

/-! SUPPORT. The conventions of 00_scope.md: bit reversal (R14), and the width W with the parameter check of the NTT
commands (R13, R154). -/

namespace Sys2Proof.Machine

/-! ### Bit reversal (R14) -/

/-- Bit j of the reversed index is bit L−1−j of the index. -/
theorem revBits_testBit (l i j : Nat) (hj : j < l) : (revBits l i).testBit j = i.testBit (l - 1 - j) := by
  induction l generalizing i with
  | zero => omega
  | succ l ih =>
    rw [revBits, Nat.mul_comm, Nat.testBit_two_pow_mul_add _ (revBits_lt l (i / 2))]
    rcases Nat.lt_succ_iff_lt_or_eq.mp hj with hlt | rfl
    · have hidx : l + 1 - 1 - j = (l - 1 - j) + 1 := by omega
      rw [if_pos hlt, ih _ hlt, hidx, Nat.testBit_succ]
    · simp

/-- `rev_L` undoes itself on the indices below 2^L. -/
theorem revBits_revBits {l i : Nat} (hi : i < 2 ^ l) : revBits l (revBits l i) = i := by
  refine Nat.eq_of_testBit_eq fun j => ?_
  rcases Nat.lt_or_ge j l with hj | hj
  · have hback : l - 1 - (l - 1 - j) = j := by omega
    rw [revBits_testBit l _ j hj, revBits_testBit l i _ (by omega), hback]
  · have hpow : 2 ^ l ≤ 2 ^ j := Nat.pow_le_pow_right (by omega) hj
    rw [Nat.testBit_lt_two_pow ((revBits_lt l _).trans_le hpow), Nat.testBit_lt_two_pow (hi.trans_le hpow)]

/-- Settles O25: the range, the bits and the involution of `rev_L`. -/
theorem revBitsReversesTheBits : Obligations.RevBitsReversesTheBits := by
  intro l i hi
  refine ⟨revBits_lt l i, fun k hk => ?_, revBits_revBits hi⟩
  have hback : l - 1 - (l - 1 - k) = k := by omega
  rw [revBits_testBit l i _ (by omega), hback]

/-! ### The width W and `ntt_check` (R13, R33, R154) -/

/-- The signed value of a cell is that of its low W bits (R10). -/
theorem sint_eq_extractLsb' (w : Nat) (v : Dword) : sint w v = (v.extractLsb' 0 w).toInt := by
  have hbits : v.setWidth w = v.extractLsb' 0 w := BitVec.eq_of_toNat_eq (by simp)
  rw [sint, hbits]

/-- TIER 0, 1 and 2 select 16, 32 and 64 bits (R33). -/
theorem State.width_of_legal_tier {s : State} {w : Nat}
    (h : (s.ctrl.tier = 0 ∧ w = 16) ∨ (s.ctrl.tier = 1 ∧ w = 32) ∨ (s.ctrl.tier = 2 ∧ w = 64)) : s.width = w := by
  rcases h with ⟨ht, rfl⟩ | ⟨ht, rfl⟩ | ⟨ht, rfl⟩ <;> rw [State.width, ht] <;> rfl

/-- The check at a level is items 1 to 3 of R154, item 4 from level 1 on, and item 5 at level 2. -/
theorem State.nttCheck_iff (s : State) (l : CheckLevel) :
    s.nttCheck l = true ↔
      s.modulusOk = true ∧ (l ≠ .scalar → s.lengthOk = true) ∧ (l = .tables → s.status.pvalid = true) := by
  cases l with
  | scalar => simp [State.nttCheck_scalar]
  | length => simp [State.nttCheck_length]
  | tables => simp [State.nttCheck_tables, and_assoc]

/-- The check fails exactly when an item of R154 holds. -/
theorem State.nttCheck_eq_false_iff (s : State) (l : CheckLevel) :
    s.nttCheck l = false ↔
      s.ctrl.rmode = 3 ∨ s.ctrl.tier = 3 ∨ s.modulus < 2 ∨ 2 ^ (s.width - 1) ≤ s.modulus
        ∨ (l ≠ .scalar ∧ (s.logn < 1 ∨ 10 < s.logn)) ∨ (l = .tables ∧ s.status.pvalid = false) := by
  rw [← Bool.not_eq_true, State.nttCheck_iff, State.modulusOk_iff, State.lengthOk_iff]
  simp only [not_and_or, Classical.not_imp, ne_eq, not_not, not_le, not_lt, Bool.not_eq_true, or_assoc]

/-- Every NTT command whose check fails reports PARAM and changes nothing else (R153, R304). -/
theorem exec_of_nttCheck_eq_false {i : Instr} {l : CheckLevel} {s : State} (hl : nttLevel i = some l)
    (h : s.nttCheck l = false) : exec i s = .next (onlyStatus s .param) := by
  have bank (d : Fin 4) (c : List Int) : bankCommand l d c s = .next (onlyStatus s .param) := by
    rw [bankCommand_eq, h]; rfl
  cases i with
  | nop | rcinit _ | rcpull | ecdbl _ _ | ecadd _ _ _ | ecmul _ _ _ => cases hl
  | muln => cases hl; rw [exec, execMuln, h]; rfl
  | primroot => cases hl; rw [exec, execPrimroot, h]; rfl
  | rootgen => cases hl; rw [exec, execRootgen, h]; rfl
  | pmul _ _ _ | bitrev _ _ | reduce _ _ | center _ _ | twmul _ _ _ | xform _ _ _ | scale _ _ | nttf _ _ | ntti _ _
  | polymul _ _ _ => cases hl; exact bank _ _

/-- Settles O10: the items of R154, with W as R33 gives it, are those at which the check fails. At the reserved tier,
where the statement's W and the model's differ (log entry 14), item 2 fails the check whatever W is. -/
theorem nttCheckFailureIsParam : Obligations.NttCheckFailureIsParam := by
  refine ⟨fun s w h => ?_, fun i l s hl => ?_⟩
  · have hw := State.width_of_legal_tier h
    refine ⟨hw, fun i => ⟨fun b => ?_, fun t => ?_⟩⟩
    · rw [State.coef, hw, sint_eq_extractLsb']
    · rw [State.twiddle, hw, sint_eq_extractLsb']
  · intro w failing
    have hiff : failing ↔ s.nttCheck l = false := by
      rw [State.nttCheck_eq_false_iff]
      by_cases ht : s.ctrl.tier = 3
      · exact iff_of_true (.inr (.inl ht)) (.inr (.inl ht))
      · rw [State.width_of_tier ht]; rfl
    exact ⟨fun hf => exec_of_nttCheck_eq_false hl (hiff.mp hf), fun hp => by simpa [hiff] using hp⟩

end Sys2Proof.Machine

/-! SUPPORT. What the commands can do, said once for every command: the effects, their frame and their codes (R70, R151,
R302). -/

namespace Sys2Proof.Machine

/-! ### What a command can do -/

/-- The state ROOTGEN leaves before its completion, for the root `psi`, its inverse `u` and the inverse `v` of n
(R172). -/
def State.rootgenFilled (s : State) (psi u v : Int) : State :=
  { ((s.storeCells (tableBase .fwd) (powerCells s.modulus s.len psi)).storeCells (tableBase .inv)
      (powerCells s.modulus s.len u)).setPvalid true with
    nttRoot := BitVec.ofInt 64 psi, nttRootinv := BitVec.ofInt 64 u, nttNinv := BitVec.ofInt 64 v }

/-- Everything a command can have done when it completes: the state before `State.complete`, and the code. -/
inductive CommandEffect (s : State) : Instr → State → ErrCode → Prop
  | statusOnly {i : Instr} {c : ErrCode} (hc : c ∈ possibleCodes i) : CommandEffect s i s c
  | product (r : Dword) : CommandEffect s .muln { s with mulnR := r } .ok
  | generator (g : Dword) {c : ErrCode} (hc : c ∈ possibleCodes .primroot) :
      CommandEffect s .primroot { s with nttGen := g } c
  | rootgenFilled {psi u v : Int} (hcheck : s.nttCheck .length = true) (hpsi : 0 ≤ psi ∧ psi < s.modulus)
      (hu : invMod? s.modulus psi = some u) (hv : invMod? s.modulus (s.len : Nat) = some v) :
      CommandEffect s .rootgen (s.rootgenFilled psi u v) .ok
  | rootgenFailed (r : Dword) {c : ErrCode} (hc : c = .noroot ∨ c = .noinv) :
      CommandEffect s .rootgen (State.setPvalid { s with nttRoot := r } false) c
  | bankWritten {i : Instr} (hcheck : s.nttCheck .length = true) (d : Fin 4) {r : List Int}
      (hlen : r.length = s.len) : CommandEffect s i (s.writeBank d r) .ok
  | cursorLoaded {m : Coding} (hk : s.kbitsOk = true) : CommandEffect s (.rcinit m) (s.loadCursor m) .ok
  | cursorPulled {y : Symbol} {rest : List Symbol} (h : s.cur.seq = y :: rest) :
      CommandEffect s .rcpull (s.pulled y rest) .ok
  | pointWritten {i : Instr} (d : Fin 4) (p : Affine) {c : ErrCode} (hc : c ∈ possibleCodes i) :
      CommandEffect s i (s.setPoint d p) c
  | multiplied {m : Coding} (rd rs1 : Fin 4) (p : Nat) (a : Int) (base : Affine) (hk : s.kbitsOk = true) :
      CommandEffect s (.ecmul rd rs1 m)
        ((ecmulBody p a base (s.loadCursor m)).st.setPoint rd (ecmulBody p a base (s.loadCursor m)).acc)
        (noinvCode (ecmulBody p a base (s.loadCursor m)).noinv)

theorem ok_mem_possibleCodes (i : Instr) : ErrCode.ok ∈ possibleCodes i := by
  cases i <;> exact List.mem_cons_self

theorem noinvCode_mem {l : List ErrCode} (hok : ErrCode.ok ∈ l) (hnoinv : ErrCode.noinv ∈ l) (b : Bool) :
    noinvCode b ∈ l := by
  cases b
  · exact hok
  · exact hnoinv

/-- A check of level 1 or 2 includes the checks of level 1. -/
theorem State.nttCheck_length_of_ne_scalar {s : State} {l : CheckLevel} (hl : l ≠ .scalar)
    (h : s.nttCheck l = true) : s.nttCheck .length = true := by
  cases l with
  | scalar => exact absurd rfl hl
  | length => exact h
  | tables => exact State.nttCheck_length_of_tables h

/-- Every command that makes a check of R154 can report PARAM (R302). -/
theorem param_mem_possibleCodes {i : Instr} {l : CheckLevel} (h : nttLevel i = some l) :
    ErrCode.param ∈ possibleCodes i := by
  cases i <;> simp [possibleCodes, nttLevel] at h ⊢

theorem bankCommand_effect {i : Instr} {l : CheckLevel} {d : Fin 4} {r : List Int} {s : State}
    (hexec : exec i s = bankCommand l d r s) (hi : nttLevel i = some l) (hl : l ≠ .scalar) (hlen : r.length = s.len) :
    ∃ u c, CommandEffect s i u c ∧ exec i s = .next (u.complete c) := by
  rw [hexec, bankCommand_eq]
  by_cases h : s.nttCheck l = true
  · exact ⟨_, _, .bankWritten (State.nttCheck_length_of_ne_scalar hl h) d hlen, by rw [if_pos h]⟩
  · exact ⟨_, _, .statusOnly (param_mem_possibleCodes hi), by rw [if_neg h]⟩

theorem rootgenWith_effect {s : State} {psi : Int} (hcheck : s.nttCheck .length = true)
    (hpsi : 0 ≤ psi ∧ psi < s.modulus) :
    ∃ u c, CommandEffect s .rootgen u c ∧ rootgenWith psi s = .next (u.complete c) := by
  rcases rootgenWith_cases psi s with ⟨u, v, hu, hv, h⟩ | ⟨-, h⟩
  · exact ⟨_, _, .rootgenFilled hcheck hpsi hu hv, h⟩
  · exact ⟨_, _, .rootgenFailed s.nttRoot (.inr rfl), h⟩

/-- A root that the search finds is a residue (R170). -/
theorem rootSearch_lt {q n r : Nat} (h : rootSearch q n = some r) : r < q := by
  obtain ⟨h2, hlt, -, -⟩ := (firstFrom_eq_some_iff _ _ _ _).mp h
  omega

theorem execRootgen_effect (s : State) :
    ∃ u c, CommandEffect s .rootgen u c ∧ execRootgen s = .next (u.complete c) := by
  rw [execRootgen]
  split
  case isFalse => exact ⟨_, _, .statusOnly (by decide), rfl⟩
  case isTrue hcheck =>
    split
    · split
      case h_1 psi hpsi =>
        exact rootgenWith_effect hcheck ⟨Int.natCast_nonneg psi, Int.ofNat_lt.mpr (rootSearch_lt hpsi)⟩
      case h_2 => exact ⟨_, _, .rootgenFailed 0 (.inl rfl), rfl⟩
    · have hpos : 0 < s.modulus := by
        obtain ⟨-, -, h2, -⟩ := (State.modulusOk_iff s).mp (State.modulusOk_of_check hcheck)
        omega
      exact rootgenWith_effect hcheck ⟨zmod_nonneg hpos _, zmod_lt hpos _⟩

/-- Every command completes, after one of the effects (R151, R302). -/
theorem exec_effect (i : Instr) (s : State) :
    ∃ u c, CommandEffect s i u c ∧ exec i s = .next (u.complete c) := by
  cases i with
  | nop => exact ⟨_, _, .statusOnly (by decide), rfl⟩
  | muln =>
    rw [exec, execMuln]
    split
    · exact ⟨_, _, .product _, rfl⟩
    · exact ⟨_, _, .statusOnly (by decide), rfl⟩
  | rootgen => exact execRootgen_effect s
  | primroot =>
    rw [exec, execPrimroot]
    split
    · split
      · exact ⟨_, _, .generator _ (by decide), rfl⟩
      · exact ⟨_, _, .generator _ (by decide), rfl⟩
    · exact ⟨_, _, .statusOnly (by decide), rfl⟩
  | pmul rd rs1 rs2 => exact bankCommand_effect rfl rfl nofun (by simp)
  | twmul rd rs1 t => exact bankCommand_effect rfl rfl nofun (by simp)
  | bitrev rd rs1 => exact bankCommand_effect rfl rfl nofun (bitrevSeq_length _ _)
  | xform rd rs1 t =>
    exact bankCommand_effect rfl rfl nofun (xformSeq_length _ _ _ _ (State.coefs_length s rs1))
  | scale rd rs1 => exact bankCommand_effect rfl rfl nofun (by simp)
  | reduce rd rs1 => exact bankCommand_effect rfl rfl nofun (by simp)
  | center rd rs1 => exact bankCommand_effect rfl rfl nofun (by simp)
  | nttf rd rs1 => exact bankCommand_effect rfl rfl nofun (nttfSeq_length _ _ _ _)
  | ntti rd rs1 =>
    exact bankCommand_effect rfl rfl nofun (nttiSeq_length _ _ _ _ _ (State.twiddles_length s .inv))
  | polymul rd rs1 rs2 =>
    exact bankCommand_effect rfl rfl nofun (nttiSeq_length _ _ _ _ _ (State.twiddles_length s .inv))
  | rcinit m =>
    rw [exec, execRcinit]
    split
    case isTrue hk => exact ⟨_, _, .cursorLoaded hk, rfl⟩
    case isFalse => exact ⟨_, _, .statusOnly (by simp [possibleCodes]), rfl⟩
  | rcpull =>
    rw [exec, execRcpull]
    split
    case h_1 => exact ⟨_, _, .statusOnly (by simp [possibleCodes]), rfl⟩
    case h_2 y rest h => exact ⟨_, _, .cursorPulled h, rfl⟩
  | ecdbl rd rs1 =>
    rw [exec, execEcdbl]
    split
    · exact ⟨_, _, .pointWritten rd _ (noinvCode_mem (ok_mem_possibleCodes _) (by simp [possibleCodes]) _), rfl⟩
    · exact ⟨_, _, .statusOnly (by simp [possibleCodes]), rfl⟩
  | ecadd rd rs1 rs2 =>
    rw [exec, execEcadd]
    split
    · exact ⟨_, _, .pointWritten rd _ (noinvCode_mem (ok_mem_possibleCodes _) (by simp [possibleCodes]) _), rfl⟩
    · exact ⟨_, _, .statusOnly (by simp [possibleCodes]), rfl⟩
  | ecmul rd rs1 m =>
    rw [exec, execEcmul]
    split
    case isTrue h => exact ⟨_, _, .multiplied rd rs1 _ _ _ (Bool.and_eq_true_iff.mp h).2, rfl⟩
    case isFalse => exact ⟨_, _, .statusOnly (by simp [possibleCodes]), rfl⟩

theorem exec_next_effect {i : Instr} {s t : State} (h : exec i s = .next t) :
    ∃ u c, CommandEffect s i u c ∧ t = u.complete c := by
  obtain ⟨u, c, heff, hexec⟩ := exec_effect i s
  rw [hexec] at h
  cases h
  exact ⟨u, c, heff, rfl⟩

/-- The body of ECMUL touches no state but the cursor, RC_SYM, RC_REMAIN and DUMMY. -/
theorem ecmulBody_frame (p : Nat) (a : Int) (base : Affine) (s : State) :
    ∃ cur y r d, (ecmulBody p a base s).st = { s with cur := cur, rcSym := y, rcRemain := r, dummy := d } := by
  rw [ecmulBody]
  split
  · exact ⟨s.cur, s.rcSym, s.rcRemain, s.dummy, rfl⟩
  case h_2 y rest _ =>
    obtain ⟨cur, y', r, d, h⟩ := ecmulLoop_frame p a base rest ⟨base, false, s.pulled y rest⟩
    exact ⟨cur, y', r, d, h⟩

/-- What no command writes: CTRL, CMD, PEND, the host's parameters and operands, STATUS but for PVALID, and the ports
(R70). -/
theorem CommandEffect.frame {s u : State} {i : Instr} {c : ErrCode} (h : CommandEffect s i u c) :
    ∃ pv root rootinv ninv mr gen count remain sym cur pt dummy mem,
      u = { s with
        status := { s.status with pvalid := pv }, nttRoot := root, nttRootinv := rootinv, nttNinv := ninv
        mulnR := mr, nttGen := gen, rcCount := count, rcRemain := remain, rcSym := sym, cur := cur, pt := pt
        dummy := dummy, mem := mem } := by
  cases h with
  | multiplied rd rs1 p a base hk =>
    obtain ⟨cur, y, r, d, hst⟩ := ecmulBody_frame p a base (s.loadCursor _)
    rw [hst]
    exact ⟨_, _, _, _, _, _, _, _, _, _, _, _, _, rfl⟩
  | statusOnly | product | generator | rootgenFilled | rootgenFailed | bankWritten | cursorLoaded | cursorPulled
  | pointWritten => exact ⟨_, _, _, _, _, _, _, _, _, _, _, _, _, rfl⟩

/-- The code of a completion is one R302 lists. -/
theorem CommandEffect.code_mem {s u : State} {i : Instr} {c : ErrCode} (h : CommandEffect s i u c) :
    c ∈ possibleCodes i := by
  cases h with
  | statusOnly hc | generator _ hc | pointWritten _ _ hc => exact hc
  | rootgenFailed _ hc => rcases hc with rfl | rfl <;> decide
  | product | rootgenFilled | bankWritten | cursorLoaded | cursorPulled => exact ok_mem_possibleCodes _
  | multiplied => exact noinvCode_mem (ok_mem_possibleCodes _) (by simp [possibleCodes]) _

/-- Settles O7: by the effects of a command, its code and what none of them writes. -/
theorem everyCommandCompletesWithAListedCode : Obligations.EveryCommandCompletesWithAListedCode := by
  intro i s
  obtain ⟨u, c, heff, hexec⟩ := exec_effect i s
  refine ⟨_, hexec, rfl, rfl, heff.code_mem, ?_⟩
  obtain ⟨_, _, _, _, _, _, _, _, _, _, _, _, _, rfl⟩ := heff.frame
  exact ⟨rfl, rfl, rfl, rfl, rfl, rfl, rfl, rfl, rfl, rfl, rfl, rfl, rfl, rfl, rfl, rfl⟩

end Sys2Proof.Machine

/-! SUPPORT. What a step and a host transaction can do and leave, and the shape of the state that every step keeps
(10_state.md, 20_memory.md). -/

namespace Sys2Proof.Machine

/-! ### What a host transaction can do -/

/-- A host read writes nothing but the read data, BUSERR and the count of free values (R97, R99). -/
theorem hostRead_frame (s : State) (off size : Nat) :
    ∃ be rdata draws, s.hostRead off size
      = { s with status := { s.status with buserr := be }, rdata := rdata, draws := draws } := by
  rcases hostRead_cases s off size with ⟨-, h⟩ | ⟨-, -, -, h⟩ | ⟨-, -, h⟩
  · exact ⟨_, _, _, h⟩
  · exact ⟨_, _, _, h⟩
  · exact ⟨_, _, _, h⟩

theorem accessValid_iff (off size : Nat) :
    accessValid off size = true ↔ size = 4 ∧ off % 4 = 0 ∧ targetOf off ≠ .unmapped := by
  simp [accessValid, and_assoc]

/-- A write to CTRL, field by field (R33, R56). -/
theorem writeCtrl_eq (s : State) (v : Word) :
    s.writeCtrl v = { s with
      ctrl := { rmode := v.extractLsb' 0 2, tier := v.extractLsb' 2 2, ie := v.getLsbD 4 }
      status := { s.status with pvalid := s.status.pvalid && decide (v.extractLsb' 2 2 = s.ctrl.tier) } } := by
  have htier : (Ctrl.ofWord v).tier = v.extractLsb' 2 2 := rfl
  rw [State.writeCtrl, htier]
  by_cases h : v.extractLsb' 2 2 = s.ctrl.tier
  · rw [if_pos h, decide_eq_true h, Bool.and_true]
    rfl
  · rw [if_neg h, decide_eq_false h, Bool.and_false]
    rfl

/-- Everything a host write can leave: BUSERR, OVR, a write to STATUS, an accepted command, a write to CTRL, stale
parameters, operands (or nothing, for a word that ignores writes), or a word of a bank. -/
inductive HostWriteEffect (s : State) : State → Prop
  | invalid : HostWriteEffect s s.setBuserr
  | dropped : HostWriteEffect s s.setOvr
  | statusWritten (v : Word) : HostWriteEffect s { s with status := Status.writeOneToClear s.status v }
  | accepted (v : Word) : HostWriteEffect s (s.accept v)
  | ctrlWritten (c : Ctrl) (pv : Bool) (h : pv = true → s.status.pvalid = true ∧ c.tier = s.ctrl.tier) :
      HostWriteEffect s { s with ctrl := c, status := { s.status with pvalid := pv } }
  | parameterWritten (logn : BitVec 4) (q root : Dword) :
      HostWriteEffect s { s.setPvalid false with nttLogn := logn, nttQ := q, nttRoot := root }
  | operandWritten (x y : Dword) (kbits : BitVec 10) (p a k : EcWord) (pt : Vector Point 4) :
      HostWriteEffect s
        { s with mulnX := x, mulnY := y, ecKbits := kbits, ecP := p, ecA := a, ecK := k, pt := pt }
  | bankWritten (off : Nat) (bs : List Byte) (hlo : 0x10000 ≤ off) (hhi : off + bs.length ≤ 0x18000) :
      HostWriteEffect s (s.storeBytes off bs)

theorem writeControl_effect (s : State) (r : ControlReg) (v : Word) : HostWriteEffect s (s.writeControl r v) := by
  cases r with
  | ctrl =>
    rw [State.writeControl, writeCtrl_eq]
    exact .ctrlWritten _ _ fun h => (Bool.and_eq_true_iff.mp h).imp_right of_decide_eq_true
  | status => exact .statusWritten v
  | cmd => exact .accepted v
  | nttLogn | nttQ _ | nttRoot _ => exact .parameterWritten _ _ _
  | mulnX _ | mulnY _ | ecKbits | id | caps | brtK | nttRootinv _ | nttNinv _ | brtM _ | invqDbl _ | mulnR _ | nttGen _
  | invqFlt | rcCount | rcRemain | rcSym => exact .operandWritten _ _ _ _ _ _ _

theorem hostWrite_effect (s : State) (off size : Nat) (v : Word) : HostWriteEffect s (s.hostWrite off size v) := by
  rcases hostWrite_cases s off size v with ⟨-, h⟩ | ⟨-, -, -, h⟩ | ⟨hv, -, h⟩
  · exact h ▸ .invalid
  · exact h ▸ .dropped
  · rw [h]
    cases htarget : targetOf off with
    | control r => exact writeControl_effect s r v
    | ecValue slot j => cases slot <;> exact .operandWritten _ _ _ _ _ _ _
    | bank =>
      obtain ⟨hlo, hhi⟩ := (targetOf_eq_bank_iff off).mp htarget
      obtain ⟨-, halign, -⟩ := (accessValid_iff off size).mp hv
      exact .bankWritten off _ hlo (by rw [leBytes_length]; omega)
    | res | table | unmapped => exact .operandWritten _ _ _ _ _ _ _

/-- No host write reaches the tables (R58). -/
theorem HostWriteEffect.byteAt_table {s u : State} (h : HostWriteEffect s u) {a : Nat} (ha : 0x18000 ≤ a) :
    u.byteAt a = s.byteAt a := by
  cases h with
  | bankWritten off bs _ hhi => rw [State.byteAt_storeBytes, if_neg (by omega)]
  | invalid | dropped | statusWritten | accepted | ctrlWritten | parameterWritten | operandWritten => rfl

/-! ### What a step can do -/

/-- The engine's turn does nothing, completes an illegal word, or completes a command with one of its effects. -/
theorem engineTurn_cases {s t : State} (h : engineTurn s = .next t) :
    (s.pend = none ∧ t = s) ∨ (∃ w r, s.pend = some w ∧ decode w = .error r ∧ t = s.complete .illegal) ∨
      ∃ w i u c, s.pend = some w ∧ decode w = .ok i ∧ CommandEffect s i u c ∧ t = u.complete c := by
  rcases hp : s.pend with _ | w
  · rw [engineTurn_idle hp] at h
    cases h
    exact .inl ⟨rfl, rfl⟩
  · rw [engineTurn_pending hp] at h
    rcases hd : decode w with r | i
    · rw [executeWord_error hd] at h
      cases h
      exact .inr (.inl ⟨w, r, rfl, hd, rfl⟩)
    · rw [executeWord_ok hd] at h
      obtain ⟨u, c, heff, rfl⟩ := exec_next_effect h
      exact .inr (.inr ⟨w, i, u, c, rfl, hd, heff, rfl⟩)

/-- What every part of a step keeps, every step keeps. -/
theorem step_keeps {P : State → Prop} (hinputs : ∀ s es, P s → P { s with inputs := es })
    (heffect : ∀ s i u c, P s → CommandEffect s i u c → P u) (hcomplete : ∀ s c, P s → P (s.complete c))
    (hread : ∀ s be rdata draws, P s →
      P { s with status := { s.status with buserr := be }, rdata := rdata, draws := draws })
    (hwrite : ∀ s u, P s → HostWriteEffect s u → P u) (hreset : ∀ s, P s → P s.onReset)
    {s t : State} (hs : P s) (h : step s = .next t) : P t := by
  rcases step_next_cases h with ⟨u, hu, ht⟩ | ⟨off, size, rest, -, -, rfl⟩ | ⟨off, size, v, rest, -, -, rfl⟩
    | ⟨rest, -, rfl⟩
  · have hPu : P u := by
      rcases hu with rfl | ⟨rest, -, rfl⟩
      · exact hs
      · exact hinputs _ _ hs
    rcases engineTurn_cases ht with ⟨-, rfl⟩ | ⟨_, _, -, -, rfl⟩ | ⟨_, i, v, c, -, -, heff, rfl⟩
    · exact hPu
    · exact hcomplete _ _ hPu
    · exact hcomplete _ _ (heffect _ _ _ _ hPu heff)
  · obtain ⟨be, rdata, draws, hr⟩ := hostRead_frame { s with inputs := rest } off size
    rw [hr]
    exact hread _ be rdata draws (hinputs _ _ hs)
  · exact hwrite _ _ (hinputs _ _ hs) (hostWrite_effect _ off size v)
  · exact hreset _ (hinputs _ _ hs)

/-! ### The shape: the RAM (R94) -/

/-- The RAM is in canonical form and inside its range. -/
def RamOk (m : Memory) : Prop := Memory.wf m = true ∧ ∀ c ∈ m, 0x10000 ≤ c.1 ∧ c.1 < Config.span

theorem RamOk.store {m : Memory} (h : RamOk m) {a : Nat} {bs : List Byte} (hlo : 0x10000 ≤ a)
    (hhi : a + bs.length ≤ Config.span) : RamOk (Memory.store m a bs) := by
  refine ⟨Memory.wf_store m a bs h.1, fun c hc => ?_⟩
  rcases Memory.mem_store m a bs c hc with hm | hnew
  · exact h.2 c hm
  · omega

theorem RamOk.storeCells {s : State} (h : RamOk s.mem) {base : Nat} {cs : List Dword} (hlo : 0x10000 ≤ base)
    (hhi : base + 8 * cs.length ≤ Config.span) : RamOk (s.storeCells base cs).mem :=
  h.store hlo (by rw [cellBytes_length]; exact hhi)

theorem State.len_le_of_check {s : State} (h : s.nttCheck .length = true) : s.len ≤ 1024 := by
  rw [State.nttCheck_length, Bool.and_eq_true] at h
  exact State.len_le h.2

/-- A table of n cells ends inside the window. -/
theorem tableBase_bounds (t : Table) : 0x18000 ≤ tableBase t ∧ tableBase t + 8 * 1024 ≤ Config.span := by
  cases t <;> decide

theorem RamOk.effect {s u : State} {i : Instr} {c : ErrCode} (hs : RamOk s.mem) (h : CommandEffect s i u c) :
    RamOk u.mem := by
  cases h with
  | statusOnly | product | generator | rootgenFailed | cursorLoaded | cursorPulled | pointWritten => exact hs
  | rootgenFilled hcheck _ _ _ =>
    have hn := State.len_le_of_check hcheck
    have hfwd := tableBase_bounds .fwd
    have hinv := tableBase_bounds .inv
    exact (hs.storeCells (by omega) (by rw [powerCells_length]; omega)).storeCells (by omega)
      (by rw [powerCells_length]; omega)
  | @bankWritten _ hcheck d r hlen =>
    have hn := State.len_le_of_check hcheck
    have hd := bankBase_bounds d
    exact hs.storeCells hd.1 (by rw [List.length_map, hlen]; have : Config.span = 0x1C000 := rfl; omega)
  | multiplied rd rs1 p a base hk =>
    obtain ⟨_, _, _, _, hst⟩ := ecmulBody_frame p a base (s.loadCursor _)
    rw [hst]
    exact hs

theorem RamOk.hostWrite {s u : State} (hs : RamOk s.mem) (h : HostWriteEffect s u) : RamOk u.mem := by
  cases h with
  | bankWritten a bs hlo hhi => exact hs.store hlo (hhi.trans (by decide))
  | invalid | dropped | statusWritten | accepted | ctrlWritten | parameterWritten | operandWritten => exact hs

theorem ramOk_nil : RamOk [] := ⟨Memory.wf_nil, fun _ hc => absurd hc List.not_mem_nil⟩

theorem step_keeps_ram {s t : State} (hs : RamOk s.mem) (h : step s = .next t) : RamOk t.mem :=
  step_keeps (P := fun s => RamOk s.mem) (fun _ _ hs => hs) (fun _ _ _ _ hs heff => hs.effect heff)
    (fun _ _ hs => hs) (fun _ _ _ _ hs => hs) (fun _ _ hs heff => hs.hostWrite heff) (fun _ _ => ramOk_nil) hs h

/-! ### The shape: the pending word (R36, R150) -/

/-- DONE is 0 while BUSY = 1, and CMD holds the pending word. -/
def PendingOk (s : State) : Prop := (s.busy = true → s.status.done = false) ∧ ∀ w, s.pend = some w → s.cmd = w

/-- With no more of DONE and the same CMD and PEND, the pending word is as well kept. -/
theorem PendingOk.mono {s t : State} (hs : PendingOk s) (hpend : t.pend = s.pend) (hcmd : t.cmd = s.cmd)
    (hdone : s.status.done = false → t.status.done = false) : PendingOk t := by
  refine ⟨fun hb => hdone (hs.1 ?_), fun w hw => ?_⟩
  · rwa [State.busy, hpend] at hb
  · rw [hcmd, hs.2 w (hpend ▸ hw)]

theorem pendingOk_of_idle {s : State} (h : s.pend = none) : PendingOk s := by
  simp [PendingOk, State.busy, h]

theorem PendingOk.hostWrite {s u : State} (hs : PendingOk s) (h : HostWriteEffect s u) : PendingOk u := by
  cases h with
  | accepted v => exact ⟨fun _ => rfl, fun _ hw => Option.some.inj hw⟩
  | statusWritten v => exact hs.mono rfl rfl fun h0 => by simp [Status.writeOneToClear, h0]
  | invalid | dropped | ctrlWritten | parameterWritten | operandWritten | bankWritten => exact hs

theorem PendingOk.effect {s u : State} {i : Instr} {c : ErrCode} (hs : PendingOk s) (h : CommandEffect s i u c) :
    PendingOk u := by
  obtain ⟨_, _, _, _, _, _, _, _, _, _, _, _, _, rfl⟩ := h.frame
  exact hs

theorem step_keeps_pending {s t : State} (hs : PendingOk s) (h : step s = .next t) : PendingOk t :=
  step_keeps (P := PendingOk) (fun _ _ hs => hs) (fun _ _ _ _ hs heff => hs.effect heff)
    (fun _ _ _ => pendingOk_of_idle rfl) (fun _ _ _ _ hs => hs) (fun _ _ hs heff => hs.hostWrite heff)
    (fun _ _ => pendingOk_of_idle rfl) hs h

/-! ### The shape: the recoder (R65, R245, R249) -/

/-- RC_REMAIN is the length of the cursor, which is at most DIGMAX, as is RC_COUNT, and no symbol is IS_SCA_DUMMY. -/
def RecoderOk (s : State) : Prop :=
  s.rcRemain.toNat = s.cur.seq.length ∧ s.cur.seq.length ≤ Config.digMax ∧ s.rcCount.toNat ≤ Config.digMax
    ∧ (∀ y ∈ s.cur.seq, y ≠ Symbol.scaDummy) ∧ s.rcSym ≠ Symbol.scaDummy

theorem bitsFrom_length (v l : Nat) : (bitsFrom v l).length = l := by
  induction l with
  | zero => rfl
  | succ l ih => rw [bitsFrom, List.length_cons, ih]

/-- A number below 2^k has at most k bits. -/
theorem bitLen_le {v k : Nat} (h : v < 2 ^ k) : bitLen v ≤ k := by
  rw [bitLen]
  split
  · omega
  · next hv => exact Nat.succ_le_of_lt ((Nat.log2_lt hv).mpr h)

/-- What a pass of `naf_digits` goes on with is about half of what it had. -/
theorem nafLoop_next_le {v k : Nat} (h : v ≤ 2 ^ (k + 1)) : ((v : Int) - nafDigit v).toNat / 2 ≤ 2 ^ k := by
  rw [pow_succ] at h
  rw [nafDigit]
  split <;> omega

/-- A recoding in NAF is at most one digit longer than the number (R245). -/
theorem nafLoop_length_le (k fuel v : Nat) (h : v ≤ 2 ^ k) : (nafLoop fuel v).length ≤ k + 1 := by
  induction k generalizing fuel v with
  | zero =>
    have hv : v = 0 ∨ v = 1 := by simp at h; omega
    rcases fuel with _ | _ | fuel <;> rcases hv with rfl | rfl <;> simp [nafLoop, nafDigit]
  | succ k ih =>
    cases fuel with
    | zero => simp [nafLoop]
    | succ fuel =>
      rw [nafLoop]
      split
      · simp
      · exact Nat.succ_le_succ (ih _ _ (nafLoop_next_le h))

theorem recode_length_le {v k : Nat} (h : v < 2 ^ k) (m : Coding) : (recode v m).length ≤ k + 1 := by
  cases m with
  | bin =>
    rw [recode, List.length_map, binDigits, bitsFrom_length]
    exact (bitLen_le h).trans (Nat.le_succ k)
  | naf =>
    rw [recode, List.length_map, nafDigits, List.length_reverse]
    exact nafLoop_length_le k v v h.le

theorem symbolOf_ne_scaDummy (z : Int) : symbolOf z ≠ .scaDummy := by
  rw [symbolOf]
  split
  · exact nofun
  · split <;> exact nofun

theorem ne_scaDummy_of_mem_recode {v : Nat} {m : Coding} {y : Symbol} (h : y ∈ recode v m) : y ≠ .scaDummy := by
  cases m with
  | bin | naf =>
    obtain ⟨z, -, rfl⟩ := List.mem_map.mp h
    exact symbolOf_ne_scaDummy z

theorem State.secret_lt {s : State} (h : s.kbitsOk = true) : s.secret < 2 ^ Config.ecWidth :=
  (Nat.mod_lt _ (Nat.two_pow_pos _)).trans_le (Nat.pow_le_pow_right (by norm_num) (of_decide_eq_true h))

theorem toNat_ofNat_length {l : List Symbol} (h : l.length ≤ Config.digMax) :
    (BitVec.ofNat 10 l.length).toNat = l.length := by
  rw [BitVec.toNat_ofNat]
  exact Nat.mod_eq_of_lt (h.trans_lt (by decide))

theorem RecoderOk.loadCursor {s : State} (hs : RecoderOk s) (hk : s.kbitsOk = true) (m : Coding) :
    RecoderOk (s.loadCursor m) := by
  obtain ⟨-, -, -, -, hsym⟩ := hs
  have hlen : (recode s.secret m).length ≤ Config.digMax := recode_length_le (State.secret_lt hk) m
  have hnat := toNat_ofNat_length hlen
  exact ⟨hnat, hlen, hnat.trans_le hlen, fun y hy => ne_scaDummy_of_mem_recode hy, hsym⟩

theorem RecoderOk.pulled {s : State} (hs : RecoderOk s) {y : Symbol} {rest : List Symbol}
    (h : s.cur.seq = y :: rest) : RecoderOk (s.pulled y rest) := by
  obtain ⟨-, hlen, hcount, hsyms, -⟩ := hs
  rw [h] at hlen hsyms
  have hrest : rest.length ≤ Config.digMax := (Nat.le_succ _).trans hlen
  exact ⟨toNat_ofNat_length hrest, hrest, hcount, fun z hz => hsyms z (List.mem_cons_of_mem y hz),
    hsyms y List.mem_cons_self⟩

theorem ecmulPass_st (p : Nat) (a : Int) (base : Affine) (y : Symbol) (rest : List Symbol) (c : MulLoop) :
    ∃ d, (ecmulPass p a base y rest c).st = { c.st.pulled y rest with dummy := d } := by
  rw [ecmulPass]
  split <;> exact ⟨_, rfl⟩

theorem RecoderOk.ecmulLoop (p : Nat) (a : Int) (base : Affine) {ys : List Symbol} {c : MulLoop}
    (hs : RecoderOk c.st) (h : c.st.cur.seq = ys) : RecoderOk (Machine.ecmulLoop p a base ys c).st := by
  induction ys generalizing c with
  | nil => exact hs
  | cons y rest ih =>
    obtain ⟨d, hpass⟩ := ecmulPass_st p a base y rest c
    exact ih (c := ecmulPass p a base y rest c) (hpass ▸ hs.pulled h) (by rw [hpass]; rfl)

theorem RecoderOk.ecmulBody (p : Nat) (a : Int) (base : Affine) {s : State} (hs : RecoderOk s) :
    RecoderOk (Machine.ecmulBody p a base s).st := by
  rw [Machine.ecmulBody]
  split
  · exact hs
  case h_2 y rest h => exact RecoderOk.ecmulLoop p a base (c := ⟨base, false, s.pulled y rest⟩) (hs.pulled h) rfl

theorem RecoderOk.effect {s u : State} {i : Instr} {c : ErrCode} (hs : RecoderOk s) (h : CommandEffect s i u c) :
    RecoderOk u := by
  cases h with
  | statusOnly | product | generator | rootgenFilled | rootgenFailed | bankWritten | pointWritten => exact hs
  | cursorLoaded hk => exact hs.loadCursor hk _
  | cursorPulled h => exact hs.pulled h
  | multiplied rd rs1 p a base hk => exact (hs.loadCursor hk _).ecmulBody p a base

theorem RecoderOk.hostWrite {s u : State} (hs : RecoderOk s) (h : HostWriteEffect s u) : RecoderOk u := by
  cases h <;> exact hs

theorem recoderOk_of_empty {s : State} (hcur : s.cur.seq = []) (hremain : s.rcRemain = 0) (hcount : s.rcCount = 0)
    (hsym : s.rcSym = .low) : RecoderOk s := by
  simp [RecoderOk, hcur, hremain, hcount, hsym]

theorem step_keeps_recoder {s t : State} (hs : RecoderOk s) (h : step s = .next t) : RecoderOk t :=
  step_keeps (P := RecoderOk) (fun _ _ hs => hs) (fun _ _ _ _ hs heff => hs.effect heff) (fun _ _ hs => hs)
    (fun _ _ _ _ hs => hs) (fun _ _ hs heff => hs.hostWrite heff)
    (fun _ _ => recoderOk_of_empty rfl rfl rfl rfl) hs h

/-! ### The shape of the state -/

theorem shapeOk_iff (s : State) : ShapeOk s ↔ RamOk s.mem ∧ PendingOk s ∧ RecoderOk s := by
  simp only [ShapeOk, RamOk, PendingOk, RecoderOk, and_assoc]

/-- Settles O59: each of the three parts of the shape is kept by every step. -/
theorem everyStepKeepsTheShape : Obligations.EveryStepKeepsTheShape := by
  intro s t hs h
  obtain ⟨hram, hpend, hrec⟩ := (shapeOk_iff s).mp hs
  exact (shapeOk_iff t).mpr ⟨step_keeps_ram hram h, step_keeps_pending hpend h, step_keeps_recoder hrec h⟩

end Sys2Proof.Machine

/-! SUPPORT. DONE, ERRCODE and PVALID over a step (R36, R56, R301), ROOTGEN's results (R172), and the invariant that
PVALID is never 1 over stale tables. -/

namespace Sys2Proof.Machine

/-! ### DONE and ERRCODE (R36, R301) -/

/-- No host write sets DONE or changes ERRCODE. -/
theorem HostWriteEffect.done_errcode {s u : State} (h : HostWriteEffect s u) :
    (u.status.done = true → s.status.done = true) ∧ u.status.errcode = s.status.errcode := by
  cases h with
  | statusWritten v => exact ⟨fun h => (Bool.and_eq_true_iff.mp h).1, rfl⟩
  | accepted v => exact ⟨nofun, rfl⟩
  | invalid | dropped | ctrlWritten | parameterWritten | operandWritten | bankWritten => exact ⟨id, rfl⟩

/-- The engine's turn changes DONE and ERRCODE only in a completion. -/
theorem engineTurn_done_errcode {s t : State} (h : engineTurn s = .next t) :
    t = s ∨ (s.busy = true ∧ t.busy = false ∧ t.status.done = true) := by
  rcases engineTurn_cases h with ⟨-, rfl⟩ | ⟨w, _, hp, -, rfl⟩ | ⟨w, _, _, _, hp, -, -, rfl⟩
  · exact .inl rfl
  · exact .inr ⟨by rw [State.busy, hp]; rfl, rfl, rfl⟩
  · exact .inr ⟨by rw [State.busy, hp]; rfl, rfl, rfl⟩

/-- Settles O8: a completion is the one part of a step that sets DONE, and reset the one other that changes ERRCODE. -/
theorem onlyCompletionSetsDoneAndErrcode : Obligations.OnlyCompletionSetsDoneAndErrcode := by
  intro s t h
  have unchanged (hdone : t.status.done = true → s.status.done = true) (hcode : t.status.errcode = s.status.errcode) :
      (s.status.done = false → t.status.done = true → s.busy = true ∧ t.busy = false)
        ∧ (t.status.errcode ≠ s.status.errcode →
          (s.busy = true ∧ t.busy = false ∧ t.status.done = true) ∨ ∃ rest, s.inputs = Event.reset :: rest) :=
    ⟨fun h0 h1 => absurd (hdone h1) (by simp [h0]), fun hne => absurd hcode hne⟩
  rcases step_next_cases h with ⟨u, hu, ht⟩ | ⟨off, size, rest, -, -, rfl⟩ | ⟨off, size, v, rest, -, -, rfl⟩
    | ⟨rest, hreset, rfl⟩
  · obtain ⟨hbusy, hstatus⟩ : u.busy = s.busy ∧ u.status = s.status := by
      rcases hu with rfl | ⟨rest, -, rfl⟩
      · exact ⟨rfl, rfl⟩
      · exact ⟨rfl, rfl⟩
    rcases engineTurn_done_errcode ht with rfl | ⟨hb, hidle, hdone⟩
    · exact unchanged (by rw [hstatus]; exact id) (by rw [hstatus])
    · rw [hbusy] at hb
      exact ⟨fun _ _ => ⟨hb, hidle⟩, fun _ => .inl ⟨hb, hidle, hdone⟩⟩
  · obtain ⟨_, _, _, hread⟩ := hostRead_frame { s with inputs := rest } off size
    rw [hread] at unchanged ⊢
    exact unchanged id rfl
  · obtain ⟨hdone, hcode⟩ := (hostWrite_effect { s with inputs := rest } off size v).done_errcode
    exact unchanged hdone hcode
  · exact ⟨fun _ => nofun, fun _ => .inr ⟨rest, hreset⟩⟩

/-! ### PVALID over a host write and over a command (R56) -/

/-- The parameters, the constants and the tables of two states are the same. -/
def SameTables (s t : State) : Prop :=
  t.ctrl.tier = s.ctrl.tier ∧ t.nttLogn = s.nttLogn ∧ t.nttQ = s.nttQ ∧ t.nttRoot = s.nttRoot
    ∧ t.nttRootinv = s.nttRootinv ∧ t.nttNinv = s.nttNinv ∧ ∀ a, 0x18000 ≤ a → t.byteAt a = s.byteAt a

/-- A host write that leaves PVALID = 1 found it so, and leaves the tables and all they depend on. -/
theorem HostWriteEffect.sameTables {s u : State} (h : HostWriteEffect s u) (hp : u.status.pvalid = true) :
    s.status.pvalid = true ∧ SameTables s u := by
  have hbytes (a : Nat) (ha : 0x18000 ≤ a) : u.byteAt a = s.byteAt a := h.byteAt_table ha
  cases h with
  | parameterWritten => cases hp
  | ctrlWritten c pv hpv => exact ⟨(hpv hp).1, (hpv hp).2, rfl, rfl, rfl, rfl, rfl, hbytes⟩
  | invalid | dropped | statusWritten | accepted | operandWritten | bankWritten =>
    exact ⟨hp, rfl, rfl, rfl, rfl, rfl, rfl, hbytes⟩

/-- A command that leaves PVALID = 1 found it so, or is a ROOTGEN that ends with OK. -/
theorem CommandEffect.pvalid {s u : State} {i : Instr} {c : ErrCode} (h : CommandEffect s i u c)
    (hp : u.status.pvalid = true) : s.status.pvalid = true ∨ (i = .rootgen ∧ c = .ok) := by
  cases h with
  | rootgenFilled => exact .inr ⟨rfl, rfl⟩
  | rootgenFailed => cases hp
  | multiplied rd rs1 p a base hk =>
    obtain ⟨_, _, _, _, hst⟩ := ecmulBody_frame p a base (s.loadCursor _)
    rw [hst] at hp
    exact .inl hp
  | statusOnly | product | generator | bankWritten | cursorLoaded | cursorPulled | pointWritten => exact .inl hp

/-- Settles O9: of all parts of a step, only a ROOTGEN that ends with OK sets PVALID. -/
theorem pvalidIsSetOnlyByRootgen : Obligations.PvalidIsSetOnlyByRootgen := by
  intro s t h h0 h1
  rcases step_next_cases h with ⟨u, hu, ht⟩ | ⟨off, size, rest, -, -, rfl⟩ | ⟨off, size, v, rest, -, -, rfl⟩
    | ⟨rest, -, rfl⟩
  · obtain ⟨hpend, hstatus⟩ : u.pend = s.pend ∧ u.status = s.status := by
      rcases hu with rfl | ⟨rest, -, rfl⟩
      · exact ⟨rfl, rfl⟩
      · exact ⟨rfl, rfl⟩
    rw [← hstatus] at h0
    rcases engineTurn_cases ht with ⟨-, rfl⟩ | ⟨_, _, -, -, rfl⟩ | ⟨w, i, v, c, hw, hd, heff, rfl⟩
    · simp [h0] at h1
    · simp [h0] at h1
    · rcases heff.pvalid h1 with hpv | ⟨rfl, rfl⟩
      · simp [h0] at hpv
      · exact ⟨w, hpend ▸ hw, hd, rfl⟩
  · obtain ⟨_, _, _, hread⟩ := hostRead_frame { s with inputs := rest } off size
    simp [hread, h0] at h1
  · have hkeep := ((hostWrite_effect { s with inputs := rest } off size v).sameTables h1).1
    simp [h0] at hkeep
  · cases h1

/-! ### The tables of a filled ROOTGEN (R59, R172) -/

/-- A residue mod q fits a register that q fits. -/
theorem toNat_ofInt_residue {w q : Nat} (hq : q ≤ 2 ^ w) {z : Int} (h0 : 0 ≤ z) (hz : z < q) :
    (BitVec.ofInt w z).toNat = z.toNat := by
  rw [BitVec.toNat_ofInt, Int.emod_eq_of_lt h0 (hz.trans_le (Int.ofNat_le.mpr hq))]

theorem State.modulus_bounds {s : State} (h : s.modulusOk = true) : 2 ≤ s.modulus ∧ s.modulus ≤ 2 ^ 64 := by
  obtain ⟨-, -, h2, hlt⟩ := (State.modulusOk_iff s).mp h
  have hw := State.width_pos h
  exact ⟨h2, hlt.le.trans (Nat.pow_le_pow_right (by norm_num) (by omega))⟩

/-- An inverse, when there is one, is a residue whose product with the number is 1 (R156). -/
theorem invMod?_some {m : Nat} (hm : 2 ≤ m) {v : Int} (hv : 0 ≤ v) {u : Int} (h : invMod? m v = some u) :
    (0 ≤ u ∧ u < m) ∧ v.toNat * u.toNat % m = 1 := by
  rcases invMod?_cases m v hm with ⟨-, hnone⟩ | ⟨-, u', hu', h1, hlt, hprod⟩
  · rw [hnone] at h
    cases h
  · rw [hu'] at h
    cases h
    obtain ⟨a, rfl⟩ := Int.eq_ofNat_of_zero_le hv
    obtain ⟨b, rfl⟩ := Int.eq_ofNat_of_zero_le (by omega : 0 ≤ u)
    refine ⟨⟨by omega, hlt⟩, ?_⟩
    rw [← Int.natCast_mul, zmod_nat] at hprod
    rw [Int.toNat_natCast, Int.toNat_natCast, Nat.mul_comm]
    exact_mod_cast hprod

/-- A cell of a table whose powers were stored holds its power. -/
theorem State.cellAt_powerCells (s : State) (base q n : Nat) (r : Int) {i : Nat} (hi : i < n) :
    (s.storeCells base (powerCells q n r)).cellAt base i = BitVec.ofNat 64 (r.toNat ^ i % q) := by
  rw [State.cellAt_storeCells _ _ _ _ (by simpa using hi), powerCells_getElem]

/-- A cell outside the cells stored is as before. -/
theorem State.cellAt_storeCells_outside (s : State) (base : Nat) (cs : List Dword) (base' i : Nat)
    (h : base' + 8 * i + 8 ≤ base ∨ base + 8 * cs.length ≤ base' + 8 * i) :
    (s.storeCells base cs).cellAt base' i = s.cellAt base' i :=
  State.cellAt_congr fun k hk => State.byteAt_storeCells_outside s base cs _ (by omega)

/-- The tables of the filled state hold the powers of the root and of its inverse. -/
theorem State.rootgenFilled_cells {s : State} (hn : s.len ≤ 1024) (psi u v : Int) {i : Nat} (hi : i < s.len) :
    (s.rootgenFilled psi u v).cellAt (tableBase .fwd) i = BitVec.ofNat 64 (psi.toNat ^ i % s.modulus)
      ∧ (s.rootgenFilled psi u v).cellAt (tableBase .inv) i = BitVec.ofNat 64 (u.toNat ^ i % s.modulus) := by
  have hfwd : (s.rootgenFilled psi u v).cellAt (tableBase .fwd) i
      = (s.storeCells (tableBase .fwd) (powerCells s.modulus s.len psi)).cellAt (tableBase .fwd) i :=
    State.cellAt_storeCells_outside _ (tableBase .inv) _ _ _ (.inl (by simp only [tableBase]; omega))
  exact ⟨by rw [hfwd, State.cellAt_powerCells _ _ _ _ _ hi], State.cellAt_powerCells _ _ _ _ _ hi⟩

/-- The bytes outside the n cells of both tables are as before. -/
theorem State.rootgenFilled_byteAt (s : State) (psi u v : Int) {a : Nat}
    (h : a < 0x18000 ∨ (0x18000 + 8 * s.len ≤ a ∧ a < 0x1A000) ∨ 0x1A000 + 8 * s.len ≤ a) :
    (s.rootgenFilled psi u v).byteAt a = s.byteAt a := by
  have hinv : (s.rootgenFilled psi u v).byteAt a
      = (s.storeCells (tableBase .fwd) (powerCells s.modulus s.len psi)).byteAt a :=
    State.byteAt_storeCells_outside _ (tableBase .inv) _ a (by rw [powerCells_length, tableBase]; omega)
  rw [hinv, State.byteAt_storeCells_outside _ _ _ a (by rw [powerCells_length, tableBase]; omega)]

/-- A ROOTGEN that ends with OK leaves constants and tables that match. -/
theorem State.rootgenFilled_tablesMatch {s : State} {psi u v : Int} (hcheck : s.nttCheck .length = true)
    (hpsi : 0 ≤ psi ∧ psi < s.modulus) (hu : invMod? s.modulus psi = some u)
    (hv : invMod? s.modulus (s.len : Nat) = some v) : TablesMatch (s.rootgenFilled psi u v) := by
  have hmod := State.modulusOk_of_check hcheck
  have hlength := (State.nttCheck_iff s .length).mp hcheck
  obtain ⟨hlogn1, hlogn10⟩ := (State.lengthOk_iff s).mp (hlength.2.1 nofun)
  obtain ⟨-, htier, hq2, hqw⟩ := (State.modulusOk_iff s).mp hmod
  have hq64 := (State.modulus_bounds hmod).2
  obtain ⟨⟨hu0, huq⟩, hpsiu⟩ := invMod?_some hq2 hpsi.1 hu
  obtain ⟨⟨hv0, hvq⟩, hnv⟩ := invMod?_some hq2 (Int.natCast_nonneg _) hv
  have hroot : (s.rootgenFilled psi u v).nttRoot.toNat = psi.toNat := toNat_ofInt_residue hq64 hpsi.1 hpsi.2
  have hrootinv : (s.rootgenFilled psi u v).nttRootinv.toNat = u.toNat := toNat_ofInt_residue hq64 hu0 huq
  have hninv : (s.rootgenFilled psi u v).nttNinv.toNat = v.toNat := toNat_ofInt_residue hq64 hv0 hvq
  have hmodulus : (s.rootgenFilled psi u v).modulus = s.modulus := rfl
  refine ⟨htier, hq2, hqw, hlogn1, hlogn10, ?_, ?_, ?_, ?_, ?_, fun i hi => ?_⟩
  · omega
  · omega
  · omega
  · rw [hroot, hrootinv]
    exact hpsiu
  · rw [hninv]
    exact hnv
  · rw [hroot, hrootinv]
    exact State.rootgenFilled_cells (State.len_le_of_check hcheck) psi u v hi

theorem tablesMatch_complete (s : State) (c : ErrCode) : TablesMatch (s.complete c) ↔ TablesMatch s := Iff.rfl

/-- A number coprime to the modulus has an inverse (R156). -/
theorem exists_invMod?_of_coprime {m v : Nat} (hm : 2 ≤ m) (h : Nat.Coprime v m) :
    ∃ u, invMod? m (v : Int) = some u := by
  refine Option.ne_none_iff_exists'.mp fun hnone => (invMod?_eq_none_iff hm _).mp hnone ?_
  rw [zmod_nat, Int.toNat_natCast, ← Nat.gcd_rec, Nat.gcd_comm]
  exact h

/-- A root of `RootChosen` is a residue. -/
theorem RootChosen.lt {s : State} {psi : Nat} (hpos : 0 < s.modulus) (h : RootChosen s psi) : psi < s.modulus := by
  rcases h with ⟨-, h2, hle, -, -⟩ | ⟨-, rfl⟩
  · omega
  · exact Nat.mod_lt _ hpos

/-- ROOTGEN works with the chosen root (R170, R172). -/
theorem execRootgen_of_rootChosen {s : State} {psi : Nat} (hcheck : s.nttCheck .length = true)
    (h : RootChosen s psi) : execRootgen s = rootgenWith psi s := by
  rw [execRootgen, if_pos hcheck]
  rcases h with ⟨hroot, h2, hle, hpow, hleast⟩ | ⟨hroot, rfl⟩
  · have hsearch : rootSearch s.modulus s.len = some psi := by
      refine (firstFrom_eq_some_iff _ _ _ _).mpr ⟨h2, by omega, by simpa [powMod] using hpow, fun m hm hlt => ?_⟩
      simpa [powMod] using hleast m hm hlt
    rw [if_pos (by rw [hroot]; rfl), hsearch]
  · have hne : s.nttRoot.toNat ≠ 0 := fun h0 => hroot (BitVec.eq_of_toNat_eq h0)
    rw [if_neg hne, zmod_nat]

/-- Settles O16: with both inverses ROOTGEN fills the tables, which then match, and writes no other byte. -/
theorem rootgenFillsTheTables : Obligations.RootgenFillsTheTables := by
  refine ⟨by decide, fun s psi hcheck hroot hpsi hlen => ?_⟩
  obtain ⟨hq2, -⟩ := State.modulus_bounds (State.modulusOk_of_check hcheck)
  have hlt := hroot.lt (by omega)
  obtain ⟨u, hu⟩ := exists_invMod?_of_coprime hq2 hpsi
  obtain ⟨v, hv⟩ := exists_invMod?_of_coprime hq2 hlen
  have hexec : exec .rootgen s = .next ((s.rootgenFilled psi u v).complete .ok) := by
    rw [exec, execRootgen_of_rootChosen hcheck hroot, rootgenWith, hu, hv]
    rfl
  refine ⟨_, hexec, ?_, ?_, fun a ha => State.rootgenFilled_byteAt s psi u v ha⟩
  · have hcast : BitVec.ofNat 64 psi = BitVec.ofInt 64 (psi : Int) := (BitVec.ofInt_natCast 64 psi).symm
    rw [hcast]
    rfl
  · rw [tablesMatch_complete]
    exact State.rootgenFilled_tablesMatch hcheck ⟨Int.natCast_nonneg _, by exact_mod_cast hlt⟩ hu hv

/-! ### PVALID is never 1 over stale tables (R56, R59) -/

theorem SameTables.tablesMatch {s t : State} (h : SameTables s t) (hs : TablesMatch s) : TablesMatch t := by
  obtain ⟨htier, hlogn, hq, hroot, hrootinv, hninv, hbyte⟩ := h
  have hcell (T : Table) (i : Nat) : t.cellAt (tableBase T) i = s.cellAt (tableBase T) i :=
    State.cellAt_congr fun k _ => hbyte _ (by have := (tableBase_bounds T).1; omega)
  simpa only [TablesMatch, State.width, State.logn, State.len, State.modulus, htier, hlogn, hq, hroot, hrootinv, hninv,
    hcell] using hs

/-- PVALID stays sound when it is cleared, and when it stays over the same tables. -/
theorem PvalidSound.mono {s t : State} (hs : PvalidSound s)
    (h : t.status.pvalid = true → s.status.pvalid = true ∧ SameTables s t) : PvalidSound t :=
  fun hp => (h hp).2.tablesMatch (hs (h hp).1)

theorem PvalidSound.effect {s u : State} {i : Instr} {c : ErrCode} (hs : PvalidSound s)
    (h : CommandEffect s i u c) : PvalidSound u := by
  cases h with
  | statusOnly | product | generator | cursorLoaded | cursorPulled | pointWritten => exact hs
  | rootgenFilled hcheck hpsi hu hv => exact fun _ => State.rootgenFilled_tablesMatch hcheck hpsi hu hv
  | rootgenFailed => exact nofun
  | @bankWritten _ hcheck d r hlen =>
    refine hs.mono fun hp => ⟨hp, rfl, rfl, rfl, rfl, rfl, rfl, fun a ha => ?_⟩
    have hn := State.len_le_of_check hcheck
    have hd := (bankBase_bounds d).2
    exact State.byteAt_writeBank_outside s d r a (.inr (by omega))
  | multiplied rd rs1 p a base hk =>
    obtain ⟨_, _, _, _, hst⟩ := ecmulBody_frame p a base (s.loadCursor _)
    rw [hst]
    exact hs

/-- Settles O60: a command sets PVALID only over tables that match, and a host write that leaves PVALID leaves them. -/
theorem everyStepKeepsPvalidSound : Obligations.EveryStepKeepsPvalidSound := fun _ _ hs h =>
  step_keeps (P := PvalidSound) (fun _ _ hs => hs) (fun _ _ _ _ hs heff => hs.effect heff) (fun _ _ hs => hs)
    (fun _ _ _ _ hs => hs) (fun _ _ hs heff => hs.mono heff.sameTables) (fun _ _ => nofun) hs h

/-- Settles O58: reset empties the RAM and the cursor, and clears BUSY and PVALID. -/
theorem invariantsHoldAtReset : Obligations.InvariantsHoldAtReset := by
  have hrec : RecoderOk State.reset := recoderOk_of_empty rfl rfl rfl rfl
  exact ⟨(shapeOk_iff _).mpr ⟨ramOk_nil, pendingOk_of_idle rfl, hrec⟩, nofun⟩

end Sys2Proof.Machine

/-! SUPPORT. What the idle block answers and takes, by the target of the word: the map (R55, R96), invalid accesses and
RES words (R54, R97), PVALID (R56), and the RAM (R57, R58, R95). -/

namespace Sys2Proof.Machine

/-! ### Host transactions of the idle block, by target -/

theorem accessValid_word {off : Nat} (ha : off % 4 = 0) (ht : targetOf off ≠ .unmapped) : accessValid off 4 = true :=
  (accessValid_iff off 4).mpr ⟨rfl, ha, ht⟩

theorem hostRead_invalid (s : State) {off size : Nat} (h : accessValid off size = false) :
    s.hostRead off size = { s.setBuserr with rdata := 0 } := by
  rw [State.hostRead, h]; rfl

theorem hostWrite_invalid (s : State) {off size : Nat} (h : accessValid off size = false) (v : Word) :
    s.hostWrite off size v = s.setBuserr := by
  rw [State.hostWrite, h]; rfl

/-- What the idle block answers at a mapped word. -/
theorem hostRead_idle {s : State} (hb : s.busy = false) {off : Nat} {tg : Target} (ha : off % 4 = 0)
    (ht : targetOf off = tg) (hm : tg ≠ .unmapped) : s.hostRead off 4 = { s with rdata := s.readTarget off tg } := by
  subst ht
  rw [State.hostRead, accessValid_word ha hm, hb]
  rfl

/-- What the idle block takes at a mapped word. -/
theorem hostWrite_idle {s : State} (hb : s.busy = false) {off : Nat} {tg : Target} (ha : off % 4 = 0)
    (ht : targetOf off = tg) (hm : tg ≠ .unmapped) (v : Word) : s.hostWrite off 4 v = s.writeTarget off v tg := by
  subst ht
  rw [State.hostWrite, accessValid_word ha hm, hb]
  rfl

theorem hostRead_control {s : State} (hb : s.busy = false) {off : Nat} {r : ControlReg} (ha : off % 4 = 0)
    (ht : targetOf off = .control r) : s.hostRead off 4 = { s with rdata := s.readControl r } :=
  hostRead_idle hb ha ht nofun

theorem hostWrite_control {s : State} (hb : s.busy = false) {off : Nat} {r : ControlReg} (ha : off % 4 = 0)
    (ht : targetOf off = .control r) (v : Word) : s.hostWrite off 4 v = s.writeControl r v :=
  hostWrite_idle hb ha ht nofun v

/-- A RES word of the idle block reads 0 and takes no write (R54, R96). -/
theorem host_res {s : State} (hb : s.busy = false) {off : Nat} (ha : off % 4 = 0) (ht : targetOf off = .res)
    (v : Word) :
    s.hostRead off 4 = { s with rdata := 0 } ∧ s.hostWrite off 4 v = s :=
  ⟨hostRead_idle hb ha ht nofun, hostWrite_idle hb ha ht nofun v⟩

/-! ### The map of the control block and of the EC slots -/

theorem mem_controlMap_of_targetOf {off : Nat} {r : ControlReg} (h : targetOf off = .control r) :
    (off, r) ∈ controlMap := by
  by_cases hlt : off < 0x100
  · rw [targetOf_control hlt] at h
    rcases controlAt_cases off controlMap with hres | ⟨r', hmem, hr⟩
    · rw [hres] at h
      cases h
    · rw [hr] at h
      cases h
      exact hmem
  · by_cases hec : 0x1000 ≤ off ∧ off < 0x1600
    · rw [targetOf_ec hec.1 hec.2] at h
      rcases ecTarget_cases (off - 0x1000) (by omega) with hres | ⟨_, _, -, hval⟩
      · rw [hres] at h
        cases h
      · rw [hval] at h
        cases h
    · rw [targetOf, if_neg hlt] at h
      split at h
      · cases h
      · rw [if_neg (by omega)] at h
        split at h
        · cases h
        · split at h
          · cases h
          · split at h <;> cases h

/-- An offset of the control block that the map does not list is RES (R54, R55). -/
theorem targetOf_res_of_control {off : Nat} (hlt : off < 0x100) (h : off = 0x01C ∨ 0x084 ≤ off) :
    targetOf off = .res := by
  rw [targetOf_control hlt]
  rcases controlAt_cases off controlMap with hres | ⟨r, hmem, -⟩
  · exact hres
  · have hoff : ∀ c ∈ controlMap, c.1 ≠ 0x01C ∧ c.1 < 0x084 := by decide
    have := hoff _ hmem
    omega

/-- The words of a slot that holds a register: words 0 to 17 are its value, the others RES (R96). -/
theorem ecTarget_of_slot {rel : Nat} {slot : EcSlot} (hslot : ecSlots[rel / 128]? = some slot) (hr : slot ≠ .reserved) :
    ecTarget rel = if rel % 128 / 4 < 18 then .ecValue slot (rel % 128 / 4) else .res := by
  rw [ecTarget, hslot]
  cases slot with
  | reserved => exact absurd rfl hr
  | p | a | k | ptX _ | ptY _ => rfl

theorem ecTarget_reserved {rel : Nat} (hslot : ecSlots[rel / 128]? = some .reserved) : ecTarget rel = .res := by
  rw [ecTarget, hslot]

theorem exists_ecSlot {rel : Nat} (h : rel < 0x600) : ∃ slot, ecSlots[rel / 128]? = some slot :=
  ⟨_, List.getElem?_eq_getElem (by show rel / 128 < 12; omega)⟩

/-- Only the fourth of the slots is reserved, and no two slots are of one register (R96). -/
theorem ecSlots_reserved_iff (m : Nat) : ecSlots[m]? = some .reserved ↔ m = 3 := by
  rcases Nat.lt_or_ge m 12 with h | h
  · interval_cases m <;> decide
  · rw [List.getElem?_eq_none h]
    exact iff_of_false nofun (by omega)

theorem ecSlots_injective {m m' : Nat} {slot : EcSlot} (h : ecSlots[m]? = some slot) (h' : ecSlots[m']? = some slot) :
    m = m' := by
  have hnodup : ecSlots.Nodup := by decide
  obtain ⟨hm, -⟩ := List.getElem?_eq_some_iff.mp h
  exact (List.getElem?_inj hm hnodup).mp (h.trans h'.symm)

/-- A word of the slots, by its slot and its number in the slot. -/
theorem targetOf_ecValue {m j : Nat} {slot : EcSlot} (hslot : ecSlots[m]? = some slot) (hr : slot ≠ .reserved)
    (hj : j < 18) : targetOf (0x1000 + 128 * m + 4 * j) = .ecValue slot j := by
  obtain ⟨hm, -⟩ := List.getElem?_eq_some_iff.mp hslot
  replace hm : m < 12 := hm
  have hidx : (0x1000 + 128 * m + 4 * j - 0x1000) / 128 = m := by omega
  have hword : (0x1000 + 128 * m + 4 * j - 0x1000) % 128 / 4 = j := by omega
  rw [targetOf_ec (by omega) (by omega), ecTarget_of_slot (by rw [hidx]; exact hslot) hr, hword, if_pos hj]

/-! ### Invalid accesses and RES words (R54, R97) -/

theorem accessValid_eq_false {off size : Nat}
    (h : size ≠ 4 ∨ off % 4 ≠ 0 ∨ (0x100 ≤ off ∧ off < 0x1000) ∨ (0x1600 ≤ off ∧ off < 0x10000)) :
    accessValid off size = false := by
  rw [← Bool.not_eq_true, accessValid_iff, Ne, targetOf_eq_unmapped_iff]
  omega

theorem targetOf_res {off : Nat} (h : off = 0x01C ∨ (0x084 ≤ off ∧ off < 0x100) ∨ (0x1180 ≤ off ∧ off < 0x1200)
    ∨ (0x1000 ≤ off ∧ off < 0x1600 ∧ 72 ≤ off % 128)) : targetOf off = .res := by
  by_cases hc : off < 0x100
  · exact targetOf_res_of_control hc (by omega)
  · rw [targetOf_ec (by omega) (by omega)]
    obtain ⟨slot, hslot⟩ := exists_ecSlot (rel := off - 0x1000) (by omega)
    by_cases hr : slot = .reserved
    · exact ecTarget_reserved (hr ▸ hslot)
    · have hne : (off - 0x1000) / 128 ≠ 3 := fun h3 =>
        hr (Option.some.inj (hslot.symm.trans ((ecSlots_reserved_iff _).mpr h3)))
      rw [ecTarget_of_slot hslot hr, if_neg (by omega)]

/-- Settles O43: by the validity of the access and the map's RES words. -/
theorem invalidAccessesSetOnlyBuserr : Obligations.InvalidAccessesSetOnlyBuserr := by
  intro s off size v _
  refine ⟨fun h => ?_, fun hb hsize ha h => ?_⟩
  · have hv := accessValid_eq_false h
    exact ⟨hostRead_invalid s hv, hostWrite_invalid s hv v⟩
  · subst hsize
    exact host_res hb ha (targetOf_res h) v

/-! ### PVALID over a host write (R56) -/

/-- A write to a register that is no parameter leaves PVALID. -/
theorem writeControl_pvalid (s : State) {off : Nat} {r : ControlReg} (hr : (off, r) ∈ controlMap)
    (hoff : off ≠ 0x008 ∧ off ≠ 0x014 ∧ off ≠ 0x020 ∧ off ≠ 0x024 ∧ off ≠ 0x028 ∧ off ≠ 0x02C) (v : Word) :
    (s.writeControl r v).status.pvalid = s.status.pvalid := by
  cases r with
  | ctrl | nttLogn =>
    simp [controlMap] at hr
    omega
  | nttQ h | nttRoot h =>
    cases h <;>
    · simp [controlMap] at hr
      omega
  | status | cmd | mulnX _ | mulnY _ | ecKbits | id | caps | brtK | nttRootinv _ | nttNinv _ | brtM _ | invqDbl _
  | mulnR _ | nttGen _ | invqFlt | rcCount | rcRemain | rcSym => rfl

/-- Settles O48: by the register written. -/
theorem parameterWritesClearPvalid : Obligations.ParameterWritesClearPvalid := by
  intro s off size v
  refine ⟨fun hb hoff => ?_, fun hb => ?_, fun h => ?_⟩
  · rcases hoff with rfl | rfl | rfl | rfl | rfl
    · rw [hostWrite_control hb (r := .nttLogn) rfl rfl]; rfl
    · rw [hostWrite_control hb (r := .nttQ .lo) rfl rfl]; rfl
    · rw [hostWrite_control hb (r := .nttQ .hi) rfl rfl]; rfl
    · rw [hostWrite_control hb (r := .nttRoot .lo) rfl rfl]; rfl
    · rw [hostWrite_control hb (r := .nttRoot .hi) rfl rfl]; rfl
  · rw [hostWrite_control hb (r := .ctrl) rfl rfl, State.writeControl, writeCtrl_eq]
  · rcases hostWrite_cases s off size v with ⟨-, hw⟩ | ⟨-, -, -, hw⟩ | ⟨hv, hidle, hw⟩
    · rw [hw]; rfl
    · rw [hw]; rfl
    · rw [hw]
      cases ht : targetOf off with
      | control r =>
        have hr := mem_controlMap_of_targetOf ht
        by_cases hstatus : r = .status
        · subst hstatus
          rfl
        · have hb : s.busy = false := hidle.resolve_right fun hst => hstatus (Target.control.inj (ht.symm.trans hst))
          refine writeControl_pvalid s hr ?_ v
          simpa [hb, hv] using h
      | ecValue slot j => cases slot <;> rfl
      | res | bank | table | unmapped => rfl

/-! ### The words of the RAM (R57, R58, R95) -/

theorem dword_eq_append (v : Dword) : v = v.extractLsb' 32 32 ++ v.extractLsb' 0 32 := by
  refine BitVec.eq_of_getLsbD_eq fun i hi => ?_
  rw [BitVec.getLsbD_append, BitVec.getLsbD_extractLsb', BitVec.getLsbD_extractLsb']
  by_cases h : i < 32
  · simp [h]
  · simp [h, show i - 32 < 32 by omega, show 32 + (i - 32) = i by omega]

theorem hostRead_ram {s : State} (hb : s.busy = false) {off : Nat} (ha : off % 4 = 0) (hlo : 0x10000 ≤ off)
    (hhi : off < 0x1C000) :
    s.hostRead off 4 = { s with rdata := BitVec.ofNat 32 (ofLeBytes (s.loadBytes off 4)) } := by
  rcases Nat.lt_or_ge off 0x18000 with h | h
  · exact hostRead_idle hb ha (targetOf_bank hlo h) nofun
  · exact hostRead_idle hb ha (targetOf_table h hhi) nofun

/-- A cell of the RAM reads as its halves. -/
theorem readsAs_cellAt {s : State} (hb : s.busy = false) {base i : Nat} (ha : base % 4 = 0) (hlo : 0x10000 ≤ base)
    (hhi : base + 8 * i + 4 < 0x1C000) : s.ReadsAs (base + 8 * i) (s.cellAt base i) := by
  obtain ⟨hwlo, hwhi⟩ := State.words_of_cellAt s base i
  rw [State.ReadsAs, hostRead_ram hb (by omega) (by omega) (by omega),
    hostRead_ram hb (by omega) (by omega) (by omega), hwlo, hwhi]
  exact ⟨rfl, rfl⟩

/-- A written block reads back. -/
theorem State.loadBytes_storeBytes_same (s : State) (a : Nat) (bs : List Byte) :
    (s.storeBytes a bs).loadBytes a bs.length = bs := by
  rw [State.loadBytes_eq]
  refine List.ext_getElem (by simp) fun k hk hk' => ?_
  rw [List.getElem_map, List.getElem_range, State.byteAt_storeBytes, if_pos (by omega), Nat.add_sub_cancel_left,
    List.getElem?_eq_getElem hk', Option.getD_some]

/-- A block apart from the one written reads as before. -/
theorem State.loadBytes_storeBytes_disjoint (s : State) (b : Nat) (bs : List Byte) {a len : Nat}
    (h : a + len ≤ b ∨ b + bs.length ≤ a) : (s.storeBytes b bs).loadBytes a len = s.loadBytes a len := by
  rw [State.loadBytes_eq, State.loadBytes_eq]
  refine List.map_congr_left fun k hk => ?_
  have := List.mem_range.mp hk
  rw [State.byteAt_storeBytes, if_neg (by omega)]

theorem ofNat_ofLeBytes_word (v : Word) : BitVec.ofNat 32 (ofLeBytes (leBytes 4 v.toNat)) = v := by
  rw [ofLeBytes_leBytes]
  refine BitVec.eq_of_toNat_eq ?_
  have := v.isLt
  simp only [BitVec.toNat_ofNat]
  omega

theorem hostWrite_bank {s : State} (hb : s.busy = false) {off : Nat} (ha : off % 4 = 0) (hlo : 0x10000 ≤ off)
    (hhi : off < 0x18000) (v : Word) : s.hostWrite off 4 v = s.storeBytes off (leBytes 4 v.toNat) :=
  hostWrite_idle hb ha (targetOf_bank hlo hhi) nofun v

/-- The words stored one after the other at a cell make up the cell. -/
theorem State.cellAt_storeBytes_words (s : State) (base i : Nat) (lo hi : Word) :
    ((s.storeBytes (base + 8 * i) (leBytes 4 lo.toNat)).storeBytes (base + 8 * i + 4)
      (leBytes 4 hi.toNat)).cellAt base i = hi ++ lo := by
  set t := (s.storeBytes (base + 8 * i) (leBytes 4 lo.toNat)).storeBytes (base + 8 * i + 4) (leBytes 4 hi.toNat) with ht
  have hlow : t.loadBytes (base + 8 * i) 4 = leBytes 4 lo.toNat := by
    rw [ht, State.loadBytes_storeBytes_disjoint _ _ _ (.inl le_rfl)]
    exact State.loadBytes_storeBytes_same s _ (leBytes 4 lo.toNat)
  have hhigh : t.loadBytes (base + 8 * i + 4) 4 = leBytes 4 hi.toNat :=
    State.loadBytes_storeBytes_same _ _ (leBytes 4 hi.toNat)
  obtain ⟨hwlo, hwhi⟩ := State.words_of_cellAt t base i
  rw [hlow, ofNat_ofLeBytes_word] at hwlo
  rw [hhigh, ofNat_ofLeBytes_word] at hwhi
  rw [dword_eq_append (t.cellAt base i), ← hwlo, ← hwhi]

theorem bankBase_align (b : Fin 4) : bankBase b % 4 = 0 := by
  rw [bankBase]
  omega

/-- Settles O49: a bank word is four bytes of the RAM. -/
theorem bankWordsReadBack : Obligations.BankWordsReadBack := by
  refine ⟨fun s b i hb hi => ?_, fun s off v hb hlo hhi ha => ?_⟩
  · have := bankBase_bounds b
    exact readsAs_cellAt (base := bankBase b) hb (bankBase_align b) this.1 (by omega)
  · have hw := hostWrite_bank hb ha hlo hhi v
    refine ⟨by rw [hw]; rfl, ?_, fun a hout => ?_, fun b i lo hi hi' => ?_⟩
    · rw [hw, hostRead_ram (s := s.storeBytes off _) hb ha hlo (by omega)]
      exact (congrArg (fun bs => BitVec.ofNat 32 (ofLeBytes bs)) (State.loadBytes_storeBytes_same s off _)).trans
        (ofNat_ofLeBytes_word v)
    · rw [hw, State.byteAt_storeBytes, leBytes_length, if_neg (by omega)]
    · have := bankBase_bounds b
      have hbase : 0x10000 + 0x2000 * b.val = bankBase b := rfl
      have halign := bankBase_align b
      rw [hbase, hostWrite_bank hb (by omega) (by omega) (by omega),
        hostWrite_bank (s := s.storeBytes _ _) hb (by omega) (by omega) (by omega)]
      exact State.cellAt_storeBytes_words s _ i lo hi

/-- Settles O52: a table word is four bytes of the RAM, which no host write reaches. -/
theorem tablesAreReadOnlyToTheHost : Obligations.TablesAreReadOnlyToTheHost := by
  refine ⟨fun s i hb hi => ⟨?_, ?_⟩, fun s off size v a ha => (hostWrite_effect s off size v).byteAt_table ha⟩
  · exact readsAs_cellAt (base := tableBase .fwd) hb (by decide) (by decide) (by simp only [tableBase]; omega)
  · exact readsAs_cellAt (base := tableBase .inv) hb (by decide) (by decide) (by simp only [tableBase]; omega)

end Sys2Proof.Machine

/-! SUPPORT. The EC slots of the idle block, word by word (R64, R96, R100). -/

namespace Sys2Proof.Machine

/-! ### One word of an EC register (R64) -/

theorem getLsbD_lowWord (i : Nat) : (0xFFFFFFFF : EcWord).getLsbD i = decide (i < 32) := by
  have h : (0xFFFFFFFF : EcWord) = (BitVec.allOnes 32).setWidth 576 := by decide +kernel
  rw [h, BitVec.getLsbD_setWidth, BitVec.getLsbD_allOnes, Bool.and_eq_right_iff_imp, decide_eq_true_eq,
    decide_eq_true_eq]
  omega

/-- The bits of a register after a write of one of its words. -/
theorem getLsbD_withEcWord (x : EcWord) {j : Nat} (hj : j < 18) (v : Word) (i : Nat) :
    (withEcWord x j v).getLsbD i = if i / 32 = j then v.getLsbD (i % 32) else x.getLsbD i := by
  rw [withEcWord, BitVec.getLsbD_or, BitVec.getLsbD_and, BitVec.getLsbD_not, BitVec.getLsbD_shiftLeft,
    BitVec.getLsbD_shiftLeft, BitVec.getLsbD_setWidth, getLsbD_lowWord]
  by_cases h : i / 32 = j
  · have h1 : i < 576 := by omega
    have h2 : ¬ i < 32 * j := by omega
    have h3 : i - 32 * j < 32 := by omega
    have h4 : i - 32 * j = i % 32 := by omega
    simp [h, h1, h2, h4, show i % 32 < 576 by omega, Nat.mod_lt]
  · rw [if_neg h]
    by_cases h1 : i < 576
    · by_cases h2 : i < 32 * j
      · simp [h1, h2]
      · have h3 : ¬ i - 32 * j < 32 := by omega
        simp [h1, h2, h3, BitVec.getLsbD_of_ge v (i - 32 * j) (by omega)]
    · simp [h1, BitVec.getLsbD_of_ge x i (by omega)]

theorem ecWord_withEcWord_same (x : EcWord) {j : Nat} (hj : j < 18) (v : Word) : ecWord (withEcWord x j v) j = v := by
  refine BitVec.eq_of_getLsbD_eq fun i hi => ?_
  rw [ecWord, BitVec.getLsbD_extractLsb', getLsbD_withEcWord x hj, if_pos (by omega),
    show (32 * j + i) % 32 = i by omega]
  simp [hi]

theorem ecWord_withEcWord_ne (x : EcWord) {j k : Nat} (hj : j < 18) (hne : k ≠ j) (v : Word) :
    ecWord (withEcWord x j v) k = ecWord x k := by
  refine BitVec.eq_of_getLsbD_eq fun i hi => ?_
  rw [ecWord, ecWord, BitVec.getLsbD_extractLsb', BitVec.getLsbD_extractLsb', getLsbD_withEcWord x hj,
    if_neg (by omega)]

theorem wordReplaced_withEcWord (x : EcWord) {j : Nat} (hj : j < 18) (v : Word) :
    WordReplaced x (withEcWord x j v) j v :=
  ⟨ecWord_withEcWord_same x hj v, fun i hi => by rw [getLsbD_withEcWord x hj, if_neg hi]⟩

/-! ### The EC slots (R96) -/

theorem readSlot_writeSlot_same (s : State) {slot : EcSlot} (hr : slot ≠ .reserved) (x : EcWord) :
    (s.writeSlot slot x).readSlot slot = x := by
  cases slot with
  | reserved => exact absurd rfl hr
  | p | a | k => rfl
  | ptX j | ptY j => simp [State.writeSlot, State.readSlot]

theorem readSlot_writeSlot_ne (s : State) {slot slot' : EcSlot} (hne : slot' ≠ slot) (x : EcWord) :
    (s.writeSlot slot x).readSlot slot' = s.readSlot slot' := by
  cases slot with
  | reserved => rfl
  | p => cases slot' with
    | p => exact absurd rfl hne
    | a | k | reserved | ptX _ | ptY _ => rfl
  | a => cases slot' with
    | a => exact absurd rfl hne
    | p | k | reserved | ptX _ | ptY _ => rfl
  | k => cases slot' with
    | k => exact absurd rfl hne
    | p | a | reserved | ptX _ | ptY _ => rfl
  | ptX j => cases slot' with
    | p | a | k | reserved => rfl
    | ptX k =>
      have hjk : (j : Nat) ≠ k := fun h => hne (congrArg EcSlot.ptX (Fin.ext h.symm))
      simp [State.writeSlot, State.readSlot, Vector.getElem_set_ne, hjk]
    | ptY k => by_cases hjk : (j : Nat) = k <;> simp [State.writeSlot, State.readSlot, hjk]
  | ptY j => cases slot' with
    | p | a | k | reserved => rfl
    | ptX k => by_cases hjk : (j : Nat) = k <;> simp [State.writeSlot, State.readSlot, hjk]
    | ptY k =>
      have hjk : (j : Nat) ≠ k := fun h => hne (congrArg EcSlot.ptY (Fin.ext h.symm))
      simp [State.writeSlot, State.readSlot, Vector.getElem_set_ne, hjk]

theorem writeSlot_busy (s : State) (slot : EcSlot) (x : EcWord) : (s.writeSlot slot x).busy = s.busy := by
  cases slot <;> rfl

/-- A word of the EC slots is RES, or one of the 18 value words of a slot that holds a register. -/
theorem targetOf_ec_cases {off : Nat} (hlo : 0x1000 ≤ off) (hhi : off < 0x1600) :
    (targetOf off = .res ∧ ((0x1180 ≤ off ∧ off < 0x1200) ∨ 72 ≤ off % 128)) ∨
      ∃ slot, ecSlots[(off - 0x1000) / 128]? = some slot ∧ slot ≠ .reserved ∧ off % 128 < 72
        ∧ targetOf off = .ecValue slot ((off - 0x1000) % 128 / 4) := by
  rw [targetOf_ec hlo hhi]
  obtain ⟨slot, hslot⟩ := exists_ecSlot (rel := off - 0x1000) (by omega)
  by_cases hr : slot = .reserved
  · have h3 := (ecSlots_reserved_iff _).mp (hr ▸ hslot)
    exact .inl ⟨ecTarget_reserved (hr ▸ hslot), .inl (by omega)⟩
  · rw [ecTarget_of_slot hslot hr]
    by_cases hword : off % 128 < 72
    · exact .inr ⟨slot, hslot, hr, hword, if_pos (by omega)⟩
    · exact .inl ⟨if_neg (by omega), .inr (by omega)⟩

/-- What the idle block reads after a write of a value word: the word written there, and every other word as before. -/
theorem readTarget_writeSlot (s : State) {off off' : Nat} {slot : EcSlot} {v : Word}
    (hslot : ecSlots[(off - 0x1000) / 128]? = some slot) (hr : slot ≠ .reserved) (hoff : off % 128 < 72)
    (hlo : 0x1000 ≤ off) (halign : off % 4 = 0) (hlo' : 0x1000 ≤ off') (hhi' : off' < 0x1600) (halign' : off' % 4 = 0)
    (hne : off' ≠ off) :
    (s.writeSlot slot (withEcWord (s.readSlot slot) ((off - 0x1000) % 128 / 4) v)).readTarget off' (targetOf off')
      = s.readTarget off' (targetOf off') := by
  rcases targetOf_ec_cases hlo' hhi' with ⟨hres, -⟩ | ⟨slot', hslot', -, -, hval⟩
  · rw [hres]
    rfl
  · rw [hval, State.readTarget, State.readTarget]
    by_cases hs : slot' = slot
    · subst hs
      have hidx := ecSlots_injective hslot hslot'
      rw [readSlot_writeSlot_same s hr, ecWord_withEcWord_ne _ (by omega) (by omega)]
    · rw [readSlot_writeSlot_ne s hs]

/-- The register behind a value word, and what a write to the word leaves. -/
theorem host_ecValue {s : State} (hb : s.busy = false) {m j : Nat} {slot : EcSlot} (hslot : ecSlots[m]? = some slot)
    (hr : slot ≠ .reserved) (hj : j < 18) (v : Word) :
    s.hostRead (0x1000 + 128 * m + 4 * j) 4 = { s with rdata := ecWord (s.readSlot slot) j }
      ∧ ∃ y, WordReplaced (s.readSlot slot) y j v
          ∧ s.hostWrite (0x1000 + 128 * m + 4 * j) 4 v = s.writeSlot slot y := by
  have ht := targetOf_ecValue hslot hr hj
  exact ⟨hostRead_idle hb (by omega) ht nofun, _, wordReplaced_withEcWord _ hj v,
    hostWrite_idle hb (by omega) ht nofun v⟩

theorem ecSlots_ptX (k : Fin 4) : ecSlots[4 + 2 * k.val]? = some (.ptX k) := by revert k; decide

theorem ecSlots_ptY (k : Fin 4) : ecSlots[5 + 2 * k.val]? = some (.ptY k) := by revert k; decide

/-- Settles O50: a value word is a word of the register behind its slot. -/
theorem ecWordsReadBack : Obligations.EcWordsReadBack := by
  refine ⟨fun s off off' v hb hlo hhi ha hword hreserved hlo' hhi' ha' => ?_, fun s j k v hb hj => ⟨?_, ?_, ?_, ?_, ?_⟩⟩
  · rcases targetOf_ec_cases hlo hhi with ⟨-, hres⟩ | ⟨slot, hslot, hr, -, ht⟩
    · omega
    · have hw := hostWrite_idle hb ha ht nofun v
      rw [State.writeTarget] at hw
      have hb' := (writeSlot_busy s slot (withEcWord (s.readSlot slot) ((off - 0x1000) % 128 / 4) v)).trans hb
      have hm' : targetOf off' ≠ .unmapped := by
        rw [Ne, targetOf_eq_unmapped_iff]
        omega
      rw [hw]
      refine ⟨?_, fun hne => ?_⟩
      · rw [hostRead_idle hb' ha ht nofun]
        show ecWord _ _ = v
        rw [readSlot_writeSlot_same s hr, ecWord_withEcWord_same _ (by omega)]
      · rw [hostRead_idle hb' ha' rfl hm', hostRead_idle hb ha' rfl hm']
        exact readTarget_writeSlot s hslot hr hword hlo ha hlo' hhi' ha' hne
  · exact host_ecValue (m := 0) hb rfl nofun hj v
  · exact host_ecValue (m := 1) hb rfl nofun hj v
  · exact host_ecValue (m := 2) hb rfl nofun hj v
  · have hoff : 0x1200 + 0x100 * k.val + 4 * j = 0x1000 + 128 * (4 + 2 * k.val) + 4 * j := by omega
    rw [hoff]
    exact host_ecValue hb (ecSlots_ptX k) nofun hj v
  · have hoff : 0x1280 + 0x100 * k.val + 4 * j = 0x1000 + 128 * (5 + 2 * k.val) + 4 * j := by omega
    rw [hoff]
    exact host_ecValue hb (ecSlots_ptY k) nofun hj v

end Sys2Proof.Machine

/-! SUPPORT. The control block of the idle block, offset by offset (R32–R56), and STATUS (R35, R300). -/

namespace Sys2Proof.Machine

/-! ### The control block -/

/-- The two words of a 64-bit register read as its halves. -/
theorem readsAs_control {s : State} (hb : s.busy = false) {off : Nat} {lo hi : ControlReg} {v : Dword}
    (ha : off % 4 = 0) (htlo : targetOf off = .control lo) (hthi : targetOf (off + 4) = .control hi)
    (hlo : s.readControl lo = v.extractLsb' 0 32) (hhi : s.readControl hi = v.extractLsb' 32 32) :
    s.ReadsAs off v := by
  rw [State.ReadsAs, hostRead_control hb ha htlo, hostRead_control hb (by omega) hthi, hlo, hhi]
  exact ⟨rfl, rfl⟩

/-- The fields of the word a read of CTRL returns (R33). -/
theorem ctrl_toWord_fields (c : Ctrl) :
    c.toWord.extractLsb' 0 2 = c.rmode ∧ c.toWord.extractLsb' 2 2 = c.tier ∧ c.toWord.getLsbD 4 = c.ie
      ∧ c.toWord.extractLsb' 5 27 = 0 := by
  obtain ⟨rmode, tier, ie⟩ := c
  simp only [Ctrl.toWord]
  revert rmode tier ie
  decide

/-- BRT_K by TIER (R43). -/
theorem barrettShift_eq (tier : BitVec 2) :
    barrettShift tier = if tier = 3 then 0 else if tier = 2 then 62 else 30 := by
  revert tier
  decide

theorem symbolCode_le (y : Symbol) : ((Symbol.code y).setWidth 32).toNat ≤ 3 := by cases y <;> decide

/-- The word targets that ignore writes: the read-only registers of the control block (R55). -/
def readOnlyTarget : Target → Bool
  | .control .ctrl | .control .status | .control .cmd | .control .nttLogn | .control (.nttQ _) | .control (.nttRoot _)
  | .control (.mulnX _) | .control (.mulnY _) | .control .ecKbits => false
  | .control _ => true
  | _ => false

theorem writeTarget_readOnly (s : State) (off : Nat) (v : Word) {tg : Target} (h : readOnlyTarget tg = true) :
    s.writeTarget off v tg = s := by
  cases tg with
  | control r => cases r with
    | ctrl | status | cmd | nttLogn | nttQ _ | nttRoot _ | mulnX _ | mulnY _ | ecKbits => cases h
    | id | caps | brtK | nttRootinv _ | nttNinv _ | brtM _ | invqDbl _ | mulnR _ | nttGen _ | invqFlt | rcCount
    | rcRemain | rcSym => rfl
  | ecValue _ _ | res | bank | table | unmapped => cases h

theorem hostWrite_readOnly {s : State} (hb : s.busy = false) {off : Nat} (ha : off % 4 = 0)
    (h : readOnlyTarget (targetOf off) = true) (v : Word) : s.hostWrite off 4 v = s := by
  have hm : targetOf off ≠ .unmapped := fun hu => by rw [hu] at h; cases h
  rw [hostWrite_idle hb ha rfl hm, writeTarget_readOnly s off v h]

/-- Writes of both words of a 64-bit register make it up (R92, R100). -/
theorem withHalf_hi_withHalf_lo (x : Dword) (lo hi : Word) : withHalf .hi (withHalf .lo x lo) hi = hi ++ lo := by
  have hlow : (withHalf .lo x lo).extractLsb' 0 32 = lo := BitVec.eq_of_getLsbD_eq fun i h => by
    rw [BitVec.getLsbD_extractLsb', withHalf, BitVec.getLsbD_append]
    simp [h]
  exact congrArg (fun low : Word => (hi ++ low : Dword)) hlow

/-- Settles O51: every offset of R55's table, by the register behind it. -/
theorem registersReadAndTakeTheirWrites : Obligations.RegistersReadAndTakeTheirWrites := by
  intro s v lo hi hb q k stale
  have hk : k = barrettShift s.ctrl.tier := (barrettShift_eq _).symm
  refine ⟨⟨?_, ?_, ?_, ?_, ?_, ?_, ?_, ?_, ?_, ?_, ?_, ?_, ?_, ?_, ?_, ?_, ?_, ?_, ?_, ?_, ?_, ?_⟩,
    ⟨?_, ?_, ?_, ?_, ?_, ?_, ?_, ?_, ?_, ?_, ?_⟩, fun off hoff => ?_, ?_, ?_, ?_, ?_⟩
  · exact hostRead_control hb (r := .id) rfl rfl
  · exact hostRead_control hb (r := .caps) rfl rfl
  · exact ⟨s.ctrl.toWord, hostRead_control hb (r := .ctrl) rfl rfl, ctrl_toWord_fields s.ctrl⟩
  · exact hostRead_control hb (r := .status) rfl rfl
  · exact hostRead_control hb (r := .cmd) rfl rfl
  · exact hostRead_control hb (r := .nttLogn) rfl rfl
  · rw [hk]
    exact hostRead_control hb (r := .brtK) rfl rfl
  · exact readsAs_control hb (lo := .nttQ .lo) (hi := .nttQ .hi) rfl rfl rfl rfl rfl
  · exact readsAs_control hb (lo := .nttRoot .lo) (hi := .nttRoot .hi) rfl rfl rfl rfl rfl
  · exact readsAs_control hb (lo := .nttRootinv .lo) (hi := .nttRootinv .hi) rfl rfl rfl rfl rfl
  · exact readsAs_control hb (lo := .nttNinv .lo) (hi := .nttNinv .hi) rfl rfl rfl rfl rfl
  · rw [hk]
    exact readsAs_control hb (lo := .brtM .lo) (hi := .brtM .hi) rfl rfl rfl rfl rfl
  · exact readsAs_control hb (lo := .invqDbl .lo) (hi := .invqDbl .hi) rfl rfl rfl rfl rfl
  · exact readsAs_control hb (lo := .mulnX .lo) (hi := .mulnX .hi) rfl rfl rfl rfl rfl
  · exact readsAs_control hb (lo := .mulnY .lo) (hi := .mulnY .hi) rfl rfl rfl rfl rfl
  · exact readsAs_control hb (lo := .mulnR .lo) (hi := .mulnR .hi) rfl rfl rfl rfl rfl
  · exact readsAs_control hb (lo := .nttGen .lo) (hi := .nttGen .hi) rfl rfl rfl rfl rfl
  · exact hostRead_control hb (r := .invqFlt) rfl rfl
  · exact hostRead_control hb (r := .ecKbits) rfl rfl
  · exact hostRead_control hb (r := .rcCount) rfl rfl
  · exact hostRead_control hb (r := .rcRemain) rfl rfl
  · exact ⟨_, symbolCode_le s.rcSym, hostRead_control hb (r := .rcSym) rfl rfl⟩
  · exact (hostWrite_control hb (r := .ctrl) rfl rfl v).trans (writeCtrl_eq s v)
  · exact hostWrite_control hb (r := .nttLogn) rfl rfl v
  · exact hostWrite_control hb (r := .nttQ .lo) rfl rfl v
  · exact hostWrite_control hb (r := .nttQ .hi) rfl rfl v
  · exact hostWrite_control hb (r := .nttRoot .lo) rfl rfl v
  · exact hostWrite_control hb (r := .nttRoot .hi) rfl rfl v
  · exact hostWrite_control hb (r := .mulnX .lo) rfl rfl v
  · exact hostWrite_control hb (r := .mulnX .hi) rfl rfl v
  · exact hostWrite_control hb (r := .mulnY .lo) rfl rfl v
  · exact hostWrite_control hb (r := .mulnY .hi) rfl rfl v
  · exact hostWrite_control hb (r := .ecKbits) rfl rfl v
  · have hreadOnly : ∀ off ∈ [0x000, 0x004, 0x018, 0x030, 0x034, 0x038, 0x03C, 0x040, 0x044, 0x048, 0x04C, 0x060, 0x064,
        0x068, 0x06C, 0x070, 0x078, 0x07C, 0x080], off % 4 = 0 ∧ readOnlyTarget (targetOf off) = true := by decide
    exact hostWrite_readOnly hb (hreadOnly off hoff).1 (hreadOnly off hoff).2 v
  · rw [hostWrite_control hb (r := .nttQ .lo) rfl rfl,
      hostWrite_control (s := s.writeControl (.nttQ .lo) lo) hb (r := .nttQ .hi) rfl rfl]
    exact withHalf_hi_withHalf_lo s.nttQ lo hi
  · rw [hostWrite_control hb (r := .nttRoot .lo) rfl rfl,
      hostWrite_control (s := s.writeControl (.nttRoot .lo) lo) hb (r := .nttRoot .hi) rfl rfl]
    exact withHalf_hi_withHalf_lo s.nttRoot lo hi
  · rw [hostWrite_control hb (r := .mulnX .lo) rfl rfl,
      hostWrite_control (s := s.writeControl (.mulnX .lo) lo) hb (r := .mulnX .hi) rfl rfl]
    exact withHalf_hi_withHalf_lo s.mulnX lo hi
  · rw [hostWrite_control hb (r := .mulnY .lo) rfl rfl,
      hostWrite_control (s := s.writeControl (.mulnY .lo) lo) hb (r := .mulnY .hi) rfl rfl]
    exact withHalf_hi_withHalf_lo s.mulnY lo hi

/-! ### STATUS (R35, R300) -/

/-- STATUS takes its write whether the block is busy or not (R101). -/
theorem hostWrite_status (s : State) (v : Word) :
    s.hostWrite 0x00C 4 v = { s with status := Status.writeOneToClear s.status v } := by
  have ht : targetOf 0x00C = .control .status := rfl
  rw [State.hostWrite, accessValid_word rfl (by rw [ht]; exact nofun), ht, bne_self_eq_false, Bool.and_false]
  rfl

/-- The word that packs six flags and a code of 0 to 5, cut into its fields. -/
theorem packedStatus_fields : ∀ (b d e p o u : Bool) (code : Fin 6),
    let w : Word := BitVec.ofNat 32
      (b.toNat + d.toNat * 2 + e.toNat * 4 + p.toNat * 8 + code.val * 16 + o.toNat * 256 + u.toNat * 512)
    w.getLsbD 0 = b ∧ w.getLsbD 1 = d ∧ w.getLsbD 2 = e ∧ w.getLsbD 3 = p ∧ (w.extractLsb' 4 4).toNat = code.val
      ∧ w.getLsbD 8 = o ∧ w.getLsbD 9 = u ∧ w.extractLsb' 10 22 = 0 := by decide

/-- The STATUS word packs BUSY, DONE, ERR, PVALID, the code in 4 bits, OVR and BUSERR. -/
theorem statusWord_fields (s : State) :
    s.statusWord.getLsbD 0 = s.busy ∧ s.statusWord.getLsbD 1 = s.status.done
      ∧ s.statusWord.getLsbD 2 = s.err ∧ s.statusWord.getLsbD 3 = s.status.pvalid
      ∧ (s.statusWord.extractLsb' 4 4).toNat = errBits s.status.errcode
      ∧ s.statusWord.getLsbD 8 = s.status.ovr ∧ s.statusWord.getLsbD 9 = s.status.buserr
      ∧ s.statusWord.extractLsb' 10 22 = 0 := by
  have hcode : errBits s.status.errcode < 6 := by cases s.status.errcode <;> decide
  exact packedStatus_fields s.busy s.status.done s.err s.status.pvalid s.status.ovr s.status.buserr ⟨_, hcode⟩

/-- Settles O47: STATUS's write, and the fields of its word. -/
theorem statusIsWriteOneToClear : Obligations.StatusIsWriteOneToClear := by
  intro s v
  obtain ⟨hbusy, hdone, herr, hpvalid, hcode, hovr, hbuserr, hzero⟩ := statusWord_fields s
  have herrbit : s.err = decide (s.status.errcode ≠ .ok) := by
    rw [State.err]
    cases s.status.errcode <;> rfl
  have hnumber : errBits s.status.errcode = (match s.status.errcode with
      | .ok => 0
      | .illegal => 1
      | .param => 2
      | .noroot => 3
      | .noinv => 4
      | .rcempty => 5) := by cases s.status.errcode <;> rfl
  exact ⟨hostWrite_status s v, hbusy, hdone, herr.trans herrbit, hpvalid, hcode.trans hnumber, hovr, hbuserr, hzero⟩

end Sys2Proof.Machine

/-! SUPPORT. INVQ_DBL and INVQ_FLT are 1/Q rounded to nearest, ties to even (R45, R46). -/

namespace Sys2Proof.Machine

/-- `bitLen (q − 1)` is the least k with q ≤ 2^k. -/
theorem pow_bitLen_pred {q : Nat} (hq : 1 ≤ q) : q ≤ 2 ^ bitLen (q - 1) ∧ 2 ^ bitLen (q - 1) < 2 * q := by
  rw [bitLen]
  split
  · omega
  · next h =>
    have hlow : 2 ^ (q - 1).log2 ≤ q - 1 := Nat.log2_self_le h
    have hhigh : q - 1 < 2 ^ ((q - 1).log2 + 1) := Nat.lt_log2_self
    rw [pow_succ] at hhigh ⊢
    omega

/-- A nearest integer to num / q, the even one on a tie: twice the error is at most q. -/
theorem divNearestEven_error {q : Nat} (hq : 1 ≤ q) (num : Nat) :
    2 * |(divNearestEven num q : Int) * q - num| ≤ q
      ∧ (2 * |(divNearestEven num q : Int) * q - num| = q → divNearestEven num q % 2 = 0) := by
  have hdiv : (q : Int) * (num / q : Nat) + (num % q : Nat) = num := by exact_mod_cast Nat.div_add_mod num q
  have hmod : num % q < q := Nat.mod_lt num hq
  rw [divNearestEven]
  generalize num / q = d, num % q = m at hdiv hmod ⊢
  split
  · have herr : ((d + 1 : Nat) : Int) * q - num = q - m := by
      push_cast
      linarith
    rw [herr, abs_of_nonneg (by omega)]
    omega
  · have herr : (d : Int) * q - num = -m := by linarith
    rw [herr, abs_neg, Nat.abs_cast]
    omega

theorem divNearestEven_bounds {q num lo hi : Nat} (hq : 1 ≤ q) (hlo : lo * q ≤ num) (hhi : num < hi * q) :
    lo ≤ divNearestEven num q ∧ divNearestEven num q ≤ hi := by
  have h1 : lo ≤ num / q := (Nat.le_div_iff_mul_le hq).mpr hlo
  have h2 : num / q < hi := (Nat.div_lt_iff_lt_mul hq).mpr hhi
  rw [divNearestEven]
  split <;> omega

/-- The encoding of 1/q, cut into exponent and fraction, is a nearest one: with `n` fraction bits, and with the value
2^(top − e) · (1/q) for the significand f to come near. Where rounding carries out of the significand, the encoding is
that of the next power of two, in whose units the error is halved. -/
theorem reciprocalEncoding_nearest {n bias top q : Nat} (htop : top = bias + n) (hq : 1 ≤ q) (hbias : q ≤ 2 ^ bias) :
    let e : Nat := reciprocalEncoding (n + 1) bias q / 2 ^ n
    let f : Nat := 2 ^ n + reciprocalEncoding (n + 1) bias q % 2 ^ n
    let err : Int := 2 * |(f : Int) * (q : Int) - (2 : Int) ^ (top - e)|
    e ≤ bias ∧ err ≤ (q : Int) ∧ (err = (q : Int) → f % 2 = 0)
      ∧ (f = 2 ^ n → (2 : Int) ^ (top - e) < (f : Int) * (q : Int) → 2 * err ≤ (q : Int)) := by
  intro e f err
  obtain ⟨hk1, hk2⟩ := pow_bitLen_pred hq
  have hkb : bitLen (q - 1) ≤ bias := bitLen_le (by omega)
  generalize hk : bitLen (q - 1) = k at hk1 hk2 hkb
  have hH : 0 < 2 ^ n := Nat.two_pow_pos n
  have hnum : 2 ^ (n + k) = 2 ^ n * 2 ^ k := pow_add 2 n k
  have hlo : 2 ^ n * q ≤ 2 ^ (n + k) := hnum ▸ Nat.mul_le_mul_left _ hk1
  have hhi : 2 ^ (n + k) < (2 * 2 ^ n) * q := by
    rw [hnum, Nat.mul_comm 2, Nat.mul_assoc]
    exact Nat.mul_lt_mul_of_pos_left hk2 hH
  obtain ⟨hr1, hr2⟩ := divNearestEven_bounds hq hlo hhi
  obtain ⟨herr, htie⟩ := divNearestEven_error hq (2 ^ (n + k))
  have hE : reciprocalEncoding (n + 1) bias q
      = (divNearestEven (2 ^ (n + k)) q - 2 ^ n) + 2 ^ n * (bias - k) := by
    rw [reciprocalEncoding, if_neg (by omega), hk, Nat.add_sub_cancel, Nat.add_comm, Nat.mul_comm (bias - k)]
  generalize divNearestEven (2 ^ (n + k)) q = r at hr1 hr2 herr htie hE
  rcases Nat.lt_or_eq_of_le hr2 with hlt | hcarry
  · have he : e = bias - k := by
      show reciprocalEncoding (n + 1) bias q / 2 ^ n = _
      rw [hE, Nat.add_mul_div_left _ _ hH, Nat.div_eq_of_lt (by omega), Nat.zero_add]
    have hf : f = r := by
      show 2 ^ n + reciprocalEncoding (n + 1) bias q % 2 ^ n = _
      rw [hE, Nat.add_mul_mod_self_left, Nat.mod_eq_of_lt (by omega)]
      omega
    have hexp : top - e = n + k := by omega
    have hcast : ((2 ^ (n + k) : Nat) : Int) = 2 ^ (n + k) := by norm_cast
    simp only [err, hf, hexp]
    rw [hcast] at herr htie
    refine ⟨by omega, herr, htie, fun hmin hbelow => ?_⟩
    rw [hmin, ← hcast] at hbelow
    norm_cast at hbelow
    omega
  · obtain ⟨k', rfl⟩ : ∃ k', k = k' + 1 := by
      refine Nat.exists_eq_succ_of_ne_zero fun h0 => ?_
      subst h0
      obtain rfl : q = 1 := by omega
      have hover : (r : Int) * (1 : Nat) - ((2 ^ (n + 0) : Nat) : Int) = (2 ^ n : Nat) := by
        rw [hcarry, Nat.add_zero]
        push_cast
        ring
      rw [hover, Nat.abs_cast] at herr
      omega
    have he : e = bias - k' := by
      show reciprocalEncoding (n + 1) bias q / 2 ^ n = _
      rw [hE, hcarry, Nat.add_mul_div_left _ _ hH, show 2 * 2 ^ n - 2 ^ n = 2 ^ n by omega, Nat.div_self hH]
      omega
    have hf : f = 2 ^ n := by
      show 2 ^ n + reciprocalEncoding (n + 1) bias q % 2 ^ n = _
      rw [hE, hcarry, Nat.add_mul_mod_self_left, show 2 * 2 ^ n - 2 ^ n = 2 ^ n by omega, Nat.mod_self, Nat.add_zero]
    have hexp : top - e = n + k' := by omega
    have hhalf : (r : Int) * q - ((2 ^ (n + (k' + 1)) : Nat) : Int)
        = 2 * ((2 ^ n : Nat) * (q : Int) - 2 ^ (n + k')) := by
      rw [hcarry, ← Nat.add_assoc, pow_succ 2 (n + k')]
      push_cast
      ring
    rw [hhalf, abs_mul, abs_two] at herr
    simp only [err, hf, hexp]
    have hpos := abs_nonneg (((2 ^ n : Nat) : Int) * (q : Int) - 2 ^ (n + k'))
    refine ⟨by omega, by omega, fun h => by omega, fun _ _ => by omega⟩

theorem toNat_invqDouble {q : Nat} (h : reciprocalEncoding 53 1023 q / 2 ^ 52 ≤ 1023) :
    (invqDouble q).toNat = reciprocalEncoding 53 1023 q := by
  rw [invqDouble, BitVec.toNat_ofNat]
  omega

theorem toNat_invqFloat {q : Nat} (h : reciprocalEncoding 24 127 q / 2 ^ 23 ≤ 127) :
    (invqFloat q).toNat = reciprocalEncoding 24 127 q := by
  rw [invqFloat, BitVec.toNat_ofNat]
  omega

/-- Settles O54: both are the nearest encoding, with 52 and with 23 fraction bits. -/
theorem reciprocalsAreRoundedToNearest : Obligations.ReciprocalsAreRoundedToNearest := by
  refine ⟨by decide, by decide, fun q hq hq64 => ?_⟩
  have hbias (b : Nat) (hb : 64 ≤ b) : q ≤ 2 ^ b := hq64.le.trans (Nat.pow_le_pow_right (by norm_num) hb)
  constructor
  · have h := reciprocalEncoding_nearest (n := 52) (bias := 1023) (top := 1075) rfl hq (hbias _ (by norm_num))
    rw [toNat_invqDouble h.1]
    exact h
  · have h := reciprocalEncoding_nearest (n := 23) (bias := 127) (top := 150) rfl hq (hbias _ (by norm_num))
    rw [toNat_invqFloat h.1]
    exact h

end Sys2Proof.Machine

/-! SUPPORT. DUMMY is never read: two states that differ in the dummy point alone stay so (R66, R278). -/

namespace Sys2Proof.Machine

/-- Two outcomes are the same up to the dummy point: next states that differ in it alone, or one fault. -/
def AgreeButDummy (o o' : Host.Outcome State Fault Refusal) : Prop :=
  (∃ t d, o = .next t ∧ o' = .next (t.withDummy d)) ∨ ∃ r, o = .fault r ∧ o' = .fault r

theorem AgreeButDummy.next (t : State) (d : Point) : AgreeButDummy (.next t) (.next (t.withDummy d)) :=
  .inl ⟨t, d, rfl, rfl⟩

theorem AgreeButDummy.finish (t : State) (d : Point) (c : ErrCode) :
    AgreeButDummy (t.finish c) ((t.withDummy d).finish c) := .next (t.complete c) d

/-! ### What the commands read -/

@[simp] theorem State.withDummy_nttCheck (s : State) (d : Point) (l : CheckLevel) :
    (s.withDummy d).nttCheck l = s.nttCheck l := by cases l <;> rfl

@[simp] theorem State.withDummy_ecModulusOk (s : State) (d : Point) : (s.withDummy d).ecModulusOk = s.ecModulusOk := rfl

@[simp] theorem State.withDummy_kbitsOk (s : State) (d : Point) : (s.withDummy d).kbitsOk = s.kbitsOk := rfl

/-- The template of the bank commands does not read DUMMY. -/
theorem bankCommand_withDummy (l : CheckLevel) (b : Fin 4) (r : List Int) (s : State) (d : Point) :
    AgreeButDummy (bankCommand l b r s) (bankCommand l b r (s.withDummy d)) := by
  rw [bankCommand, bankCommand, State.withDummy_nttCheck]
  split
  · exact .finish (s.writeBank b r) d .ok
  · exact .finish s d .param

theorem rootgenWith_withDummy (psi : Int) (s : State) (d : Point) :
    AgreeButDummy (rootgenWith psi s) (rootgenWith psi (s.withDummy d)) := by
  have hmodulus : (s.withDummy d).modulus = s.modulus := rfl
  have hlen : (s.withDummy d).len = s.len := rfl
  rw [rootgenWith, rootgenWith, hmodulus, hlen]
  split
  case h_1 u v _ _ => exact .finish (s.rootgenFilled psi u v) d .ok
  case h_2 => exact .finish (s.setPvalid false) d .noinv

theorem execRootgen_withDummy (s : State) (d : Point) :
    AgreeButDummy (execRootgen s) (execRootgen (s.withDummy d)) := by
  have hmodulus : (s.withDummy d).modulus = s.modulus := rfl
  have hlen : (s.withDummy d).len = s.len := rfl
  have hroot : (s.withDummy d).nttRoot = s.nttRoot := rfl
  rw [execRootgen, execRootgen, State.withDummy_nttCheck, hmodulus, hlen, hroot]
  split
  · split
    · split
      · exact rootgenWith_withDummy _ s d
      · exact .finish (State.setPvalid { s with nttRoot := 0 } false) d .noroot
    · exact rootgenWith_withDummy _ s d
  · exact .finish s d .param

/-- A pass of the digit loop does not read DUMMY, and what it writes there it does not read. -/
theorem ecmulPass_withDummy (p : Nat) (a : Int) (base : Affine) (y : Symbol) (rest : List Symbol) (c : MulLoop)
    (d : Point) : ∃ d', ecmulPass p a base y rest { c with st := c.st.withDummy d }
      = { ecmulPass p a base y rest c with st := (ecmulPass p a base y rest c).st.withDummy d' } := by
  simp only [ecmulPass]
  split
  · exact ⟨d, rfl⟩
  · exact ⟨_, rfl⟩

theorem ecmulLoop_withDummy (p : Nat) (a : Int) (base : Affine) (ys : List Symbol) (c : MulLoop) (d : Point) :
    ∃ d', ecmulLoop p a base ys { c with st := c.st.withDummy d }
      = { ecmulLoop p a base ys c with st := (ecmulLoop p a base ys c).st.withDummy d' } := by
  induction ys generalizing c d with
  | nil => exact ⟨d, rfl⟩
  | cons y rest ih =>
    obtain ⟨d', hpass⟩ := ecmulPass_withDummy p a base y rest c d
    rw [ecmulLoop, ecmulLoop, hpass]
    exact ih (ecmulPass p a base y rest c) d'

theorem ecmulBody_withDummy (p : Nat) (a : Int) (base : Affine) (s : State) (d : Point) :
    ∃ d', ecmulBody p a base (s.withDummy d)
      = { ecmulBody p a base s with st := (ecmulBody p a base s).st.withDummy d' } := by
  have hcur : (s.withDummy d).cur = s.cur := rfl
  rw [ecmulBody, ecmulBody, hcur]
  split
  · exact ⟨d, rfl⟩
  case h_2 y rest _ => exact ecmulLoop_withDummy p a base rest ⟨base, false, s.pulled y rest⟩ d

theorem execEcmul_withDummy (rd rs1 : Fin 4) (m : Coding) (s : State) (d : Point) :
    AgreeButDummy (execEcmul rd rs1 m s) (execEcmul rd rs1 m (s.withDummy d)) := by
  rw [execEcmul, execEcmul, State.withDummy_ecModulusOk, State.withDummy_kbitsOk]
  split
  · obtain ⟨d', hbody⟩ := ecmulBody_withDummy s.ecModulus s.curveA (s.point rs1) (s.loadCursor m) d
    have hbody' : ecmulBody (s.withDummy d).ecModulus (s.withDummy d).curveA ((s.withDummy d).point rs1)
        ((s.withDummy d).loadCursor m) = _ := hbody
    rw [hbody']
    exact .finish _ d' _
  · exact .finish s d .param

/-- No command reads DUMMY. -/
theorem exec_withDummy (i : Instr) (s : State) (d : Point) : AgreeButDummy (exec i s) (exec i (s.withDummy d)) := by
  cases i with
  | nop => exact .finish s d .ok
  | muln =>
    rw [exec, exec, execMuln, execMuln, State.withDummy_nttCheck]
    split
    · exact .finish { s with mulnR := _ } d .ok
    · exact .finish s d .param
  | rootgen => exact execRootgen_withDummy s d
  | primroot =>
    have hmodulus : (s.withDummy d).modulus = s.modulus := rfl
    rw [exec, exec, execPrimroot, execPrimroot, State.withDummy_nttCheck, hmodulus]
    split
    · split
      case h_1 g _ => exact .finish { s with nttGen := BitVec.ofNat 64 g } d .ok
      case h_2 => exact .finish { s with nttGen := 0 } d .noroot
    · exact .finish s d .param
  | pmul _ _ _ | twmul _ _ _ | bitrev _ _ | xform _ _ _ | scale _ _ | reduce _ _ | center _ _ | nttf _ _ | ntti _ _
  | polymul _ _ _ => exact bankCommand_withDummy _ _ _ s d
  | rcinit m =>
    rw [exec, exec, execRcinit, execRcinit, State.withDummy_kbitsOk]
    split
    · exact .finish (s.loadCursor m) d .ok
    · exact .finish s d .param
  | rcpull =>
    have hcur : (s.withDummy d).cur = s.cur := rfl
    rw [exec, exec, execRcpull, execRcpull, hcur]
    split
    case h_1 => exact .finish s d .rcempty
    case h_2 y rest _ => exact .finish (s.pulled y rest) d .ok
  | ecdbl rd rs1 =>
    rw [exec, exec, execEcdbl, execEcdbl, State.withDummy_ecModulusOk]
    split
    · exact .finish (s.setPoint rd _) d _
    · exact .finish s d .param
  | ecadd rd rs1 rs2 =>
    rw [exec, exec, execEcadd, execEcadd, State.withDummy_ecModulusOk]
    split
    · exact .finish (s.setPoint rd _) d _
    · exact .finish s d .param
  | ecmul rd rs1 m => exact execEcmul_withDummy rd rs1 m s d

theorem engineTurn_withDummy (s : State) (d : Point) : AgreeButDummy (engineTurn s) (engineTurn (s.withDummy d)) := by
  have hpend : (s.withDummy d).pend = s.pend := rfl
  rw [engineTurn, engineTurn, hpend]
  split
  case h_2 => exact .next s d
  case h_1 w _ =>
    rw [executeWord, executeWord]
    split
    case h_1 i _ => exact exec_withDummy i s d
    case h_2 => exact .finish s d .illegal

/-! ### What the host reads and writes -/

theorem readTarget_withDummy (s : State) (d : Point) (off : Nat) (tg : Target) :
    (s.withDummy d).readTarget off tg = s.readTarget off tg := by
  cases tg with
  | control r => cases r <;> rfl
  | ecValue slot j => cases slot <;> rfl
  | res | bank | table | unmapped => rfl

theorem hostRead_withDummy (s : State) (d : Point) (off size : Nat) :
    (s.withDummy d).hostRead off size = (s.hostRead off size).withDummy d := by
  have hbusy : (s.withDummy d).busy = s.busy := rfl
  rw [State.hostRead, State.hostRead, readTarget_withDummy, hbusy]
  split
  · rfl
  · split <;> rfl

theorem writeTarget_withDummy (s : State) (d : Point) (off : Nat) (v : Word) (tg : Target) :
    (s.withDummy d).writeTarget off v tg = (s.writeTarget off v tg).withDummy d := by
  cases tg with
  | control r =>
    cases r with
    | ctrl => exact (writeCtrl_eq _ v).trans (congrArg (·.withDummy d) (writeCtrl_eq s v)).symm
    | status | cmd | nttLogn | nttQ _ | nttRoot _ | mulnX _ | mulnY _ | ecKbits | id | caps | brtK | nttRootinv _
    | nttNinv _ | brtM _ | invqDbl _ | mulnR _ | nttGen _ | invqFlt | rcCount | rcRemain | rcSym => rfl
  | ecValue slot j => cases slot <;> rfl
  | res | bank | table | unmapped => rfl

theorem hostWrite_withDummy (s : State) (d : Point) (off size : Nat) (v : Word) :
    (s.withDummy d).hostWrite off size v = (s.hostWrite off size v).withDummy d := by
  have hbusy : (s.withDummy d).busy = s.busy := rfl
  rw [State.hostWrite, State.hostWrite, writeTarget_withDummy, hbusy]
  split
  · rfl
  · split <;> rfl

/-! ### The step -/

theorem eventStep_withDummy (e : Event) (s : State) (d : Point) :
    AgreeButDummy (eventStep e s) (eventStep e (s.withDummy d)) := by
  cases e with
  | busRead off size =>
    rw [eventStep, eventStep, busReadStep, busReadStep, hostRead_withDummy]
    split
    · exact .next _ d
    · exact .inr ⟨_, rfl, rfl⟩
  | busWrite off size v =>
    rw [eventStep, eventStep, busWriteStep, busWriteStep, hostWrite_withDummy]
    split
    · exact .next _ d
    · exact .inr ⟨_, rfl, rfl⟩
  | engine => exact engineTurn_withDummy s d
  | reset => exact .next s.onReset s.onReset.dummy

theorem step_withDummy (s : State) (d : Point) : AgreeButDummy (step s) (step (s.withDummy d)) := by
  have hinputs : (s.withDummy d).inputs = s.inputs := rfl
  rw [step, step, hinputs]
  split
  · exact engineTurn_withDummy s d
  · next e rest _ => exact eventStep_withDummy e { s with inputs := rest } d

/-- Settles O42: no part of a step reads DUMMY, and none is refused. -/
theorem dummyPointIsNeverRead : Obligations.DummyPointIsNeverRead := by
  intro s d
  rcases step_withDummy s d with ⟨t, d', hnext, hnext'⟩ | ⟨r, hfault, hfault'⟩
  · refine ⟨fun u hu => ⟨d', ?_⟩, fun r hr => ?_, fun r hr => ?_⟩
    · rw [hnext] at hu
      cases hu
      exact hnext'
    · rw [hnext] at hr
      cases hr
    · rw [hnext] at hr
      cases hr
  · refine ⟨fun u hu => ?_, fun r' hr => ?_, fun r' hr => ?_⟩
    · rw [hfault] at hu
      cases hu
    · rw [hfault] at hr
      cases hr
      exact hfault'
    · rw [hfault] at hr
      cases hr

end Sys2Proof.Machine

/-! SUPPORT. ECMUL with OK is scalar multiplication in the group of the curve (R60, R274): the value of a recoding, the
doubling and the addition of the block as those of the group, and the digit loop. -/

namespace Sys2Proof.Machine

/-! ### The value of a recoding (R241, R245) -/

/-- The digit of a symbol (R244). -/
def Symbol.digit : Symbol → Int
  | .low => 0
  | .high => 1
  | .scaDummy => 0
  | .minusOne => -1

/-- What the digit loop makes of a multiple: it doubles it and adds the digit, symbol by symbol (R268). -/
def symbolsValue (k : Int) (ys : List Symbol) : Int := ys.foldl (fun k y => 2 * k + y.digit) k

/-- What a digit sequence makes of a multiple `k`: double and add, most significant digit first. -/
def hornerValue (k : Int) (zs : List Int) : Int := zs.foldl (fun k z => 2 * k + z) k

theorem symbolsValue_map {zs : List Int} (h : ∀ z ∈ zs, z = -1 ∨ z = 0 ∨ z = 1) (k : Int) :
    symbolsValue k (zs.map symbolOf) = hornerValue k zs := by
  rw [symbolsValue, List.foldl_map, hornerValue]
  refine List.foldl_ext _ _ k fun acc z hz => ?_
  rcases h z hz with rfl | rfl | rfl <;> rfl

theorem hornerValue_bitsFrom (k : Int) (v l : Nat) : hornerValue k (bitsFrom v l) = k * 2 ^ l + (v % 2 ^ l : Nat) := by
  induction l generalizing k with
  | zero => simp [bitsFrom, hornerValue, Nat.mod_one]
  | succ l ih =>
    have hbit : v % 2 ^ (l + 1) = v % 2 ^ l + 2 ^ l * (v.testBit l).toNat := by
      rw [Nat.mod_pow_succ, Nat.toNat_testBit]
    rw [bitsFrom, hornerValue, List.foldl_cons, ← hornerValue, ih, hbit]
    cases v.testBit l <;> simp <;> ring

theorem bitsFrom_digit {v l : Nat} {z : Int} (h : z ∈ bitsFrom v l) : z = -1 ∨ z = 0 ∨ z = 1 := by
  induction l with
  | zero => cases h
  | succ l ih =>
    rcases List.mem_cons.mp h with rfl | h
    · split <;> simp
    · exact ih h

/-- The binary digits of a positive number: a leading 1, and digits that make up the number after it. -/
theorem binDigits_of_pos {v : Nat} (hv : 0 < v) :
    ∃ zs, binDigits v = 1 :: zs ∧ hornerValue 1 zs = v ∧ ∀ z ∈ zs, z = -1 ∨ z = 0 ∨ z = 1 := by
  have hlow := Nat.log2_self_le hv.ne'
  have hhigh : v < 2 ^ (v.log2 + 1) := Nat.lt_log2_self
  have hlead : v / 2 ^ v.log2 = 1 := by
    rw [pow_succ] at hhigh
    exact Nat.div_eq_of_lt_le (by omega) (by omega)
  have htop : v.testBit v.log2 = true := by rw [Nat.testBit_eq_decide_div_mod_eq, hlead]; rfl
  refine ⟨bitsFrom v v.log2, ?_, ?_, fun z hz => bitsFrom_digit hz⟩
  · rw [binDigits, bitLen, if_neg hv.ne', bitsFrom, htop]
    rfl
  · have hsplit := Nat.div_add_mod v (2 ^ v.log2)
    rw [hlead] at hsplit
    rw [hornerValue_bitsFrom, one_mul]
    exact_mod_cast (by omega : 2 ^ v.log2 + v % 2 ^ v.log2 = v)

/-- One pass of `naf_digits`: its digit, and what is left to recode. -/
theorem nafDigit_spec {v : Nat} (hv : 0 < v) :
    (nafDigit v = -1 ∨ nafDigit v = 0 ∨ nafDigit v = 1)
      ∧ 2 * ((((v : Int) - nafDigit v).toNat / 2 : Nat) : Int) + nafDigit v = v
      ∧ ((v : Int) - nafDigit v).toNat / 2 < v ∧ (((v : Int) - nafDigit v).toNat / 2 = 0 → nafDigit v = 1) := by
  rw [nafDigit]
  split <;> omega

/-- The digits of `naf_digits` before their reversal: the last is 1, and they make up the number. -/
theorem nafLoop_of_pos (fuel v : Nat) (hv : 0 < v) (hf : v ≤ fuel) :
    ∃ zs, nafLoop fuel v = zs ++ [1] ∧ (nafLoop fuel v).foldr (fun z k : Int => 2 * k + z) 0 = (v : Int)
      ∧ ∀ z ∈ zs, z = -1 ∨ z = 0 ∨ z = 1 := by
  induction fuel generalizing v with
  | zero => omega
  | succ fuel ih =>
    obtain ⟨hdigit, hvalue, hlt, hlast⟩ := nafDigit_spec hv
    rw [nafLoop, if_neg hv.ne']
    generalize ((v : Int) - nafDigit v).toNat / 2 = v' at *
    rcases Nat.eq_zero_or_pos v' with rfl | hpos
    · have hnil : nafLoop fuel 0 = [] := by cases fuel <;> rfl
      rw [hnil, hlast rfl]
      rw [hlast rfl] at hvalue
      exact ⟨[], rfl, by simpa using hvalue, nofun⟩
    · obtain ⟨zs, hzs, hfold, hdigits⟩ := ih v' hpos (by omega)
      refine ⟨nafDigit v :: zs, by rw [hzs]; rfl, by rw [List.foldr_cons, hfold, hvalue], fun z hz => ?_⟩
      rcases List.mem_cons.mp hz with rfl | hz
      · exact hdigit
      · exact hdigits z hz

/-- The signed digits of a positive number: a leading 1, and digits that make up the number after it. -/
theorem nafDigits_of_pos {v : Nat} (hv : 0 < v) :
    ∃ zs, nafDigits v = 1 :: zs ∧ hornerValue 1 zs = v ∧ ∀ z ∈ zs, z = -1 ∨ z = 0 ∨ z = 1 := by
  obtain ⟨zs, hzs, hfold, hdigits⟩ := nafLoop_of_pos v v hv le_rfl
  have hrev : nafDigits v = 1 :: zs.reverse := by
    rw [nafDigits, hzs, List.reverse_append]
    rfl
  refine ⟨zs.reverse, hrev, ?_, fun z hz => hdigits z (List.mem_reverse.mp hz)⟩
  rw [hzs, List.foldr_append] at hfold
  rw [hornerValue, List.foldl_reverse]
  exact hfold

/-- The recoding of a positive number: IS_HIGH first, and symbols that make up the number after it. -/
theorem recode_of_pos {v : Nat} (hv : 0 < v) (m : Coding) :
    ∃ ys, recode v m = .high :: ys ∧ symbolsValue 1 ys = v := by
  obtain ⟨zs, hzs, hvalue, hdigits⟩ : ∃ zs, (match m with
      | .bin => binDigits v
      | .naf => nafDigits v) = 1 :: zs ∧ hornerValue 1 zs = v ∧ ∀ z ∈ zs, z = -1 ∨ z = 0 ∨ z = 1 := by
    cases m with
    | bin => exact binDigits_of_pos hv
    | naf => exact nafDigits_of_pos hv
  refine ⟨zs.map symbolOf, ?_, (symbolsValue_map hdigits 1).trans hvalue⟩
  cases m <;> exact congrArg (List.map symbolOf) hzs

theorem recode_zero (m : Coding) : recode 0 m = [] := by cases m <;> rfl

/-! ### NOINV over the digit loop (R268) -/

/-- Once NOINV is flagged it stays flagged. -/
theorem noinv_of_ecmulLoop {p : Nat} {A : Int} {base : Affine} {ys : List Symbol} {c : MulLoop}
    (h : (ecmulLoop p A base ys c).noinv = false) : c.noinv = false := by
  induction ys generalizing c with
  | nil => exact h
  | cons y rest ih =>
    have hpass := ih h
    rw [ecmulPass] at hpass
    split at hpass
    · exact (Bool.or_eq_false_iff.mp (Bool.or_eq_false_iff.mp hpass).1).1
    · exact (Bool.or_eq_false_iff.mp (Bool.or_eq_false_iff.mp hpass).1).1

/-! ### The block's points as points of the curve (R60, R261, R263, R265) -/

section Curve

variable {p : Nat} [Fact p.Prime] {a b : ZMod p}

/-- A reduced pair stands for a point of the curve other than the identity. -/
def Represents (r : Affine) (P : (shortCurve p a b).toAffine.Point) : Prop :=
  ((0 ≤ r.x ∧ r.x < p) ∧ (0 ≤ r.y ∧ r.y < p))
    ∧ ∃ h : (shortCurve p a b).toAffine.Nonsingular (r.x : ZMod p) (r.y : ZMod p), P = .some _ _ h

theorem represents_of_coordinates {r : Affine} {x y : ZMod p} (hr : (0 ≤ r.x ∧ r.x < p) ∧ (0 ≤ r.y ∧ r.y < p))
    (hx : (r.x : ZMod p) = x) (hy : (r.y : ZMod p) = y) (h : (shortCurve p a b).toAffine.Nonsingular x y) :
    Represents r (.some x y h) := by
  subst hx hy
  exact ⟨hr, h, rfl⟩

theorem zmod_reduced (z : Int) : 0 ≤ zmod p z ∧ zmod p z < p :=
  have hp : 0 < p := (Fact.out : p.Prime).pos
  ⟨zmod_nonneg hp z, zmod_lt hp z⟩

theorem negY_shortCurve (x y : ZMod p) : (shortCurve p a b).toAffine.negY x y = -y := by
  simp [WeierstrassCurve.Affine.negY, shortCurve, WeierstrassCurve.toAffine]

theorem ecNeg_represents {r : Affine} {P : (shortCurve p a b).toAffine.Point} (h : Represents r P) :
    Represents (ecNeg p r) (-P) := by
  obtain ⟨hr, hns, rfl⟩ := h
  refine represents_of_coordinates (r := ecNeg p r) ⟨hr.1, zmod_reduced _⟩ rfl ?_ _
  rw [negY_shortCurve, ecNeg, zmod_cast, Int.cast_neg]

/-- An inverse that is found is one mod p. -/
theorem invMod?_mul_cast {v u : Int} (h : invMod? p (zmod p v) = some u) : (u : ZMod p) * (v : ZMod p) = 1 := by
  have hp : 2 ≤ p := (Fact.out : p.Prime).two_le
  rcases invMod?_cases p (zmod p v) hp with ⟨-, hnone⟩ | ⟨-, u', hu', -, -, hprod⟩
  · rw [hnone] at h
    cases h
  · rw [hu'] at h
    cases h
    have := congrArg (fun z : Int => (z : ZMod p)) hprod
    rwa [zmod_cast, Int.cast_mul, zmod_cast, Int.cast_one] at this

theorem ecChord_reduced (lam x y xb : Int) : (0 ≤ (ecChord p lam x y xb).x ∧ (ecChord p lam x y xb).x < p)
    ∧ (0 ≤ (ecChord p lam x y xb).y ∧ (ecChord p lam x y xb).y < p) := ⟨zmod_reduced _, zmod_reduced _⟩

/-- The third point of the line of slope `lam`, mirrored, is the sum of the two points. -/
theorem ecChord_represents {r r' : Affine} {lam : Int}
    {h : (shortCurve p a b).toAffine.Nonsingular (r.x : ZMod p) (r.y : ZMod p)}
    {h' : (shortCurve p a b).toAffine.Nonsingular (r'.x : ZMod p) (r'.y : ZMod p)}
    (hne : ¬((r.x : ZMod p) = r'.x ∧ (r.y : ZMod p) = (shortCurve p a b).toAffine.negY r'.x r'.y))
    (hlam : (lam : ZMod p) = (shortCurve p a b).toAffine.slope r.x r'.x r.y r'.y) :
    Represents (ecChord p lam r.x r.y r'.x)
      (WeierstrassCurve.Affine.Point.some _ _ h + WeierstrassCurve.Affine.Point.some _ _ h') := by
  rw [WeierstrassCurve.Affine.Point.add_some hne]
  refine represents_of_coordinates (ecChord_reduced _ _ _ _) ?_ ?_ _
  · rw [← hlam]
    simp [ecChord, zmod_cast, WeierstrassCurve.Affine.addX, shortCurve, WeierstrassCurve.toAffine]
  · rw [← hlam]
    simp [ecChord, zmod_cast, WeierstrassCurve.Affine.addX, WeierstrassCurve.Affine.addY,
      WeierstrassCurve.Affine.negAddY, WeierstrassCurve.Affine.negY, shortCurve, WeierstrassCurve.toAffine]
    ring

theorem ecDbl_represents (hb : b ≠ 0) {A : Int} (hA : (A : ZMod p) = a) {r : Affine}
    {P : (shortCurve p a b).toAffine.Point} (h : Represents r P) (hok : (ecDbl p A r).2 = false) :
    Represents (ecDbl p A r).1 (P + P) := by
  obtain ⟨-, hns, rfl⟩ := h
  have hzero : ¬(r.x = 0 ∧ r.y = 0) := by
    rintro ⟨hx, hy⟩
    have heq := hns.left
    rw [hx, hy, Int.cast_zero, WeierstrassCurve.Affine.equation_zero] at heq
    exact hb heq
  rw [ecDbl, if_neg hzero] at hok ⊢
  rcases hu : invMod? p (zmod p (2 * r.y)) with _ | u
  · rw [hu] at hok
    cases hok
  · have hinv : (u : ZMod p) * (2 * (r.y : ZMod p)) = 1 := by simpa using invMod?_mul_cast hu
    have hy : (r.y : ZMod p) ≠ (shortCurve p a b).toAffine.negY r.x r.y := by
      intro heq
      rw [negY_shortCurve] at heq
      have h0 : 2 * (r.y : ZMod p) = 0 := by linear_combination heq
      rw [h0, mul_zero] at hinv
      exact zero_ne_one hinv
    refine ecChord_represents (fun hxy => hy hxy.2) ?_
    rw [WeierstrassCurve.Affine.slope_of_Y_ne rfl hy, eq_div_iff (sub_ne_zero.mpr hy), negY_shortCurve, zmod_cast]
    simp only [shortCurve, WeierstrassCurve.toAffine, Option.getD_some]
    push_cast
    rw [hA]
    linear_combination (3 * (r.x : ZMod p) ^ 2 + a) * hinv

theorem ecAdd_represents {r r' : Affine} {P P' : (shortCurve p a b).toAffine.Point} (h : Represents r P)
    (h' : Represents r' P') (hok : (ecAdd p r r').2 = false) : Represents (ecAdd p r r').1 (P + P') := by
  obtain ⟨-, hns, rfl⟩ := h
  obtain ⟨-, hns', rfl⟩ := h'
  rw [ecAdd] at hok ⊢
  rcases hu : invMod? p (zmod p (r'.x - r.x)) with _ | u
  · rw [hu] at hok
    cases hok
  · have hinv : (u : ZMod p) * ((r'.x : ZMod p) - r.x) = 1 := by simpa using invMod?_mul_cast hu
    have hx : (r.x : ZMod p) ≠ r'.x := by
      intro heq
      rw [heq, sub_self, mul_zero] at hinv
      exact zero_ne_one hinv
    refine ecChord_represents (fun hxy => hx hxy.1) ?_
    rw [WeierstrassCurve.Affine.slope_of_X_ne hx, eq_div_iff (sub_ne_zero.mpr hx), zmod_cast, Option.getD_some]
    push_cast
    linear_combination ((r.y : ZMod p) - r'.y) * hinv

/-! ### The digit loop (R268) -/

/-- A pass that flags nothing doubles the accumulator and adds the digit's multiple of the base. -/
theorem ecmulPass_represents (hb : b ≠ 0) {A : Int} (hA : (A : ZMod p) = a) {base : Affine}
    {B : (shortCurve p a b).toAffine.Point} (hbase : Represents base B) {c : MulLoop} {k : Int}
    (hacc : Represents c.acc (k • B)) (y : Symbol) (rest : List Symbol)
    (hok : (ecmulPass p A base y rest c).noinv = false) :
    Represents (ecmulPass p A base y rest c).acc ((2 * k + y.digit) • B) := by
  have hflags : (ecDbl p A c.acc).2 = false
      ∧ (ecAdd p (ecDbl p A c.acc).1 (if y.negative then ecNeg p base else base)).2 = false := by
    rw [ecmulPass] at hok
    split at hok <;>
    · obtain ⟨h12, h3⟩ := Bool.or_eq_false_iff.mp hok
      exact ⟨(Bool.or_eq_false_iff.mp h12).2, h3⟩
  have hdbl := ecDbl_represents hb hA hacc hflags.1
  have hsum : y.nonzero = true → Represents
      (ecAdd p (ecDbl p A c.acc).1 (if y.negative then ecNeg p base else base)).1 (k • B + k • B + y.digit • B) := by
    intro hy
    refine ecAdd_represents hdbl ?_ hflags.2
    cases y with
    | low | scaDummy => cases hy
    | high => simpa [Symbol.digit, Symbol.negative, Symbol.code] using hbase
    | minusOne => simpa [Symbol.digit, Symbol.negative, Symbol.code] using ecNeg_represents hbase
  have hdouble : (2 * k + y.digit) • B = k • B + k • B + y.digit • B := by rw [add_zsmul, two_mul, add_zsmul]
  rw [hdouble, ecmulPass]
  split
  · next hy => exact hsum hy
  · next hy =>
    have hdigit : y.digit = 0 := by
      cases y with
      | low | scaDummy => rfl
      | high | minusOne => exact absurd rfl hy
    rw [hdigit, zero_zsmul, add_zero]
    exact hdbl

theorem ecmulLoop_represents (hb : b ≠ 0) {A : Int} (hA : (A : ZMod p) = a) {base : Affine}
    {B : (shortCurve p a b).toAffine.Point} (hbase : Represents base B) {ys : List Symbol} {c : MulLoop} {k : Int}
    (hacc : Represents c.acc (k • B)) (hok : (ecmulLoop p A base ys c).noinv = false) :
    Represents (ecmulLoop p A base ys c).acc (symbolsValue k ys • B) := by
  induction ys generalizing c k with
  | nil => exact hacc
  | cons y rest ih =>
    exact ih (ecmulPass_represents hb hA hbase hacc y rest (noinv_of_ecmulLoop hok)) hok

/-- The body of ECMUL on a recoded number that flags nothing: (0, 0) for 0, and the multiple otherwise. -/
theorem ecmulBody_represents (hb : b ≠ 0) {A : Int} (hA : (A : ZMod p) = a) {base : Affine}
    {B : (shortCurve p a b).toAffine.Point} (hbase : Represents base B) {s : State} {v : Nat} {m : Coding}
    (hseq : s.cur.seq = recode v m) (hok : (ecmulBody p A base s).noinv = false) :
    (v = 0 ∧ (ecmulBody p A base s).acc = ⟨0, 0⟩) ∨ Represents (ecmulBody p A base s).acc (v • B) := by
  rcases Nat.eq_zero_or_pos v with rfl | hv
  · rw [recode_zero] at hseq
    exact .inl ⟨rfl, by rw [ecmulBody, hseq]⟩
  · obtain ⟨ys, hys, hvalue⟩ := recode_of_pos hv m
    rw [ecmulBody, hseq, hys] at hok ⊢
    have h := ecmulLoop_represents (k := 1) hb hA hbase (c := ⟨base, false, s.pulled .high ys⟩)
      (by rw [one_zsmul]; exact hbase) hok
    rw [hvalue, natCast_zsmul] at h
    exact .inr h

end Curve

theorem zextEc_zero : zextEc 0 = 0 := BitVec.ofInt_natCast 576 0

/-- A residue mod p reads back from a register as wide as one that holds p. -/
theorem toNat_ofInt_cast {w p : Nat} {x : BitVec w} (hp : x.toNat = p) {z : Int} (hz : 0 ≤ z ∧ z < p) :
    ((BitVec.ofInt w z).toNat : ZMod p) = (z : ZMod p) := by
  have hle : p ≤ 2 ^ w := hp ▸ x.isLt.le
  rw [toNat_ofInt_residue hle hz.1 hz.2, ← Int.cast_natCast, Int.toNat_of_nonneg hz.1]

/-- An ECMUL that completes with OK has passed its checks, and its loop has flagged nothing (R268). -/
theorem exec_ecmul_ok {rd rs1 : Fin 4} {m : Coding} {s t : State} (h : exec (.ecmul rd rs1 m) s = .next t)
    (hok : t.status.errcode = .ok) :
    let r := ecmulBody s.ecModulus s.curveA (s.point rs1) (s.loadCursor m)
    r.noinv = false ∧ t.pt[rd] = ⟨zextEc r.acc.x, zextEc r.acc.y⟩ := by
  intro r
  rw [exec, execEcmul] at h
  split at h
  · cases h
    refine ⟨?_, by simp [r]⟩
    cases hr : r.noinv with
    | false => rfl
    | true =>
      have : noinvCode r.noinv = .ok := hok
      rw [hr] at this
      cases this
  · cases h
    cases hok

/-- Settles O41: the digit loop computes the multiple in the group of the curve. -/
theorem ecmulIsScalarMultiplication : Obligations.EcmulIsScalarMultiplication := by
  intro p _ s t rd rs1 m b hp hb hB h hok
  obtain ⟨hnoinv, hpt⟩ := exec_ecmul_ok h hok
  have hmod : s.ecModulus = p := hp
  rw [hmod] at hnoinv hpt
  have hcurve : (s.curveA : ZMod p) = (s.ecA.toNat : ZMod p) := by
    rw [State.curveA, hmod, zmod_cast, Int.cast_natCast]
  have hbase : Represents (s.point rs1) (WeierstrassCurve.Affine.Point.some _ _ hB) := by
    refine represents_of_coordinates ?_ ?_ ?_ hB
    · rw [State.point, hmod]
      exact ⟨zmod_reduced _, zmod_reduced _⟩
    · rw [State.point, hmod, zmod_cast, Int.cast_natCast]
    · rw [State.point, hmod, zmod_cast, Int.cast_natCast]
  have hseq : (s.loadCursor m).cur.seq = recode (s.ecK.toNat % 2 ^ s.ecKbits.toNat) m := rfl
  rw [hpt]
  rcases ecmulBody_represents hb hcurve hbase hseq hnoinv with ⟨h0, hacc⟩ | ⟨⟨hx, hy⟩, hns, hpoint⟩
  · rw [h0, zero_nsmul, hacc]
    exact congrArg₂ Point.mk zextEc_zero zextEc_zero
  · rw [hpoint]
    exact ⟨toNat_ofInt_cast hp hx, toNat_ofInt_cast hp hy⟩

end Sys2Proof.Machine

/-! SUPPORT. The encoder against the decoder (R121–R126), as far as a step needs it. -/

namespace Sys2Proof

/-! ### The fields of a built word (R121, R124) -/

/-- The fields of R124 do not overlap, so the word is their sum. -/
theorem buildWord_toNat {opc rd rs1 rs2 m : Nat} (hopc : opc < 2 ^ 8) (hrd : rd < 4) (hrs1 : rs1 < 4) (hrs2 : rs2 < 4)
    (hm : m < 2) :
    (buildWord opc rd rs1 rs2 m).toNat = opc + rd * 2 ^ 8 + rs1 * 2 ^ 10 + rs2 * 2 ^ 12 + m * 2 ^ 14 := by
  have join {a b k : Nat} (ha : a < 2 ^ k) : a ||| b * 2 ^ k = a + b * 2 ^ k := by
    rw [Nat.or_comm, Nat.mul_comm, ← Nat.two_pow_add_eq_or_of_lt ha, Nat.add_comm]
  simp only [buildWord, BitVec.toNat_or, BitVec.toNat_shiftLeft, BitVec.toNat_ofNat, Nat.shiftLeft_eq]
  simp (disch := omega) only [Nat.mod_eq_of_lt]
  rw [join hopc, join (k := 10) (by omega), join (k := 12) (by omega), join (k := 14) (by omega)]

/-- Each field of a built word is what it was built from. -/
theorem buildWord_fields {opc m : Nat} (hopc : opc < 2 ^ 8) (rd rs1 rs2 : Fin 4) (hm : m < 2) :
    let w := buildWord opc rd rs1 rs2 m
    opcodeOf w = opc ∧ fieldRd w = rd ∧ fieldRs1 w = rs1 ∧ fieldRs2 w = rs2 ∧ w.getLsbD 14 = decide (m = 1) := by
  intro w
  have hw : w.toNat = _ := buildWord_toNat hopc rd.isLt rs1.isLt rs2.isLt hm
  have field (k n : Nat) : (w.extractLsb' k n).toNat = w.toNat / 2 ^ k % 2 ^ n := by
    rw [BitVec.extractLsb'_toNat, Nat.shiftRight_eq_div_pow]
  refine ⟨?_, Fin.ext ?_, Fin.ext ?_, Fin.ext ?_, ?_⟩
  · rw [opcodeOf, field, hw]; omega
  · rw [fieldRd, BitVec.val_toFin, field, hw]; omega
  · rw [fieldRs1, BitVec.val_toFin, field, hw]; omega
  · rw [fieldRs2, BitVec.val_toFin, field, hw]; omega
  · rw [BitVec.getLsbD, Nat.testBit_eq_decide_div_mod_eq, hw]
    exact decide_eq_decide.mpr (by omega)

/-- The M bit of a table operand reads back as the table (R131). -/
theorem fieldTable_of_bit {w : Word} {t : Table} (h : w.getLsbD 14 = decide (tableBit t = 1)) : fieldTable w = t := by
  rw [fieldTable, h]; cases t <;> rfl

theorem fieldCoding_of_bit {w : Word} {m : Coding} (h : w.getLsbD 14 = decide (codingBit m = 1)) :
    fieldCoding w = m := by
  rw [fieldCoding, h]; cases m <;> rfl

theorem tableBit_lt (t : Table) : tableBit t < 2 := by cases t <;> decide

theorem codingBit_lt (m : Coding) : codingBit m < 2 := by cases m <;> decide

theorem opcodeFor_lt (i : Instr) : opcodeFor i < 2 ^ 8 := by cases i <;> simp [opcodeFor]

/-! ### A command's word decodes to it (R126, R152) -/

/-- A word built with a command's opcode decodes to the command, when the bits its format fixes are zero and the
opcode map reads the command back from the fields. -/
theorem decode_encode_of_fields {i : Instr} {f : Format} {rd rs1 rs2 : Fin 4} {m : Nat}
    (he : encode i = buildWord (opcodeFor i) rd rs1 rs2 m) (hm : m < 2)
    (hf : formatOfOpcode (opcodeFor i) = some f) (hmask : encode i &&& f.mask = BitVec.ofNat 32 (opcodeFor i))
    (hi : ∀ w, opcodeOf w = opcodeFor i → fieldRd w = rd → fieldRs1 w = rs1 → fieldRs2 w = rs2 →
      w.getLsbD 14 = decide (m = 1) → commandOf w = some i) :
    decode (encode i) = .ok i := by
  obtain ⟨hopc, hrd, hrs1, hrs2, hbit⟩ := buildWord_fields (opcodeFor_lt i) rd rs1 rs2 hm
  rw [← he] at hopc hrd hrs1 hrs2 hbit
  have hlegal : wordFault? (encode i) = none := by
    rw [wordFault?, hopc, hf]
    exact if_pos hmask
  rw [decode, hlegal, hi _ hopc hrd hrs1 hrs2 hbit]

/-- The operands of every command read back from its word, by the fields its format has (R123, R124). -/
theorem decode_encode (i : Instr) : decode (encode i) = .ok i := by
  cases i with
  | nop | muln | rootgen | primroot | rcpull =>
    exact decode_encode_of_fields (rd := 0) (rs1 := 0) (rs2 := 0) rfl (by decide) rfl (by decide)
      fun w hopc _ _ _ _ => by simp only [commandOf, hopc, opcodeFor]
  | pmul rd rs1 rs2 | polymul rd rs1 rs2 | ecadd rd rs1 rs2 =>
    exact decode_encode_of_fields rfl (by decide) rfl (by revert rd rs1 rs2; decide)
      fun w hopc hrd hrs1 hrs2 _ => by simp only [commandOf, hopc, opcodeFor, hrd, hrs1, hrs2]
  | bitrev rd rs1 | scale rd rs1 | reduce rd rs1 | center rd rs1 | nttf rd rs1 | ntti rd rs1 | ecdbl rd rs1 =>
    exact decode_encode_of_fields (rs2 := 0) rfl (by decide) rfl (by revert rd rs1; decide)
      fun w hopc hrd hrs1 _ _ => by simp only [commandOf, hopc, opcodeFor, hrd, hrs1]
  | twmul rd rs1 t | xform rd rs1 t =>
    exact decode_encode_of_fields (rs2 := 0) rfl (tableBit_lt t) rfl (by revert rd rs1; cases t <;> decide)
      fun w hopc hrd hrs1 _ hbit => by simp only [commandOf, hopc, opcodeFor, hrd, hrs1, fieldTable_of_bit hbit]
  | ecmul rd rs1 m =>
    exact decode_encode_of_fields (rs2 := 0) rfl (codingBit_lt m) rfl (by revert rd rs1; cases m <;> decide)
      fun w hopc hrd hrs1 _ hbit => by simp only [commandOf, hopc, opcodeFor, hrd, hrs1, fieldCoding_of_bit hbit]
  | rcinit m =>
    exact decode_encode_of_fields (rd := 0) (rs1 := 0) (rs2 := 0) rfl (codingBit_lt m) rfl (by cases m <;> decide)
      fun w hopc _ _ _ hbit => by simp only [commandOf, hopc, opcodeFor, fieldCoding_of_bit hbit]

end Sys2Proof

/-! SUPPORT. The busy block's answers to the host, reads as such (R97, R99, R101, R102), and a step by its event (R103,
R151, R340). -/

namespace Sys2Proof.Machine

/-! ### Host transactions of the busy block, by target -/

/-- STATUS is one word of the map (R55). -/
theorem targetOf_eq_status_iff (off : Nat) : targetOf off = .control .status ↔ off = 0x00C := by
  constructor
  · intro h
    have honly : ∀ c ∈ controlMap, c.2 = .status → c.1 = 0x00C := by decide
    exact honly _ (mem_controlMap_of_targetOf h) rfl
  · rintro rfl
    rfl

/-- The words that stay readable while BUSY = 1 lie below 0x014 (R55, R102). -/
theorem readableWhileBusy_lt {off : Nat} (h : readableWhileBusy (targetOf off) = true) : off < 0x014 := by
  cases ht : targetOf off with
  | control r =>
    have hbelow : ∀ c ∈ controlMap, readableWhileBusy (.control c.2) = true → c.1 < 0x014 := by decide
    exact hbelow _ (mem_controlMap_of_targetOf ht) (ht ▸ h)
  | ecValue _ _ | res | bank | table | unmapped =>
    rw [ht] at h
    cases h

/-- A word that stays readable while BUSY = 1 reads the same busy or idle (R102). -/
theorem hostRead_readable (s : State) {off : Nat} {r : ControlReg} (ha : off % 4 = 0)
    (ht : targetOf off = .control r) (hr : readableWhileBusy (.control r) = true) :
    s.hostRead off 4 = { s with rdata := s.readControl r } := by
  rw [State.hostRead, accessValid_word ha (by rw [ht]; exact nofun), ht, hr, Bool.not_true, Bool.and_false]
  rfl

/-- Any other mapped word reads as the next free value while BUSY = 1 (R102, log entry 6). -/
theorem hostRead_busy {s : State} (hb : s.busy = true) {off size : Nat} (hv : accessValid off size = true)
    (hr : readableWhileBusy (targetOf off) = false) :
    s.hostRead off size = { s with rdata := Config.busyRead s.draws, draws := s.draws + 1 } := by
  rw [State.hostRead, hv, hb, hr]
  rfl

/-- While BUSY = 1 a valid write to any word but STATUS is dropped (R101). -/
theorem hostWrite_busy {s : State} (hb : s.busy = true) {off size : Nat} (hv : accessValid off size = true)
    (ht : targetOf off ≠ .control .status) (v : Word) : s.hostWrite off size v = s.setOvr := by
  rw [State.hostWrite, hv, hb, bne_iff_ne.mpr ht]
  rfl

/-- Settles O44: STATUS's target is that of 0x00C alone. -/
theorem writesWhileBusyAreDropped : Obligations.WritesWhileBusyAreDropped := by
  intro s off size v hb
  refine ⟨fun hv hoff => ?_, hostWrite_status s v, fun hv => ?_⟩
  · exact hostWrite_busy hb hv ((targetOf_eq_status_iff off).not.mpr hoff) v
  · rw [hostWrite_invalid s hv]
    rfl

/-- Settles O45: the five readable words one by one, and the words above them as free values. -/
theorem readsWhileBusy : Obligations.ReadsWhileBusy := by
  intro s off hb
  refine ⟨⟨?_, ?_, ?_, ?_, ?_⟩, fun hv hoff => ?_⟩
  · exact hostRead_readable s (r := .id) rfl rfl rfl
  · exact hostRead_readable s (r := .caps) rfl rfl rfl
  · exact hostRead_readable s (r := .ctrl) rfl rfl rfl
  · exact hostRead_readable s (r := .status) rfl rfl rfl
  · exact hostRead_readable s (r := .cmd) rfl rfl rfl
  · refine hostRead_busy hb hv (Bool.eq_false_iff.mpr fun hr => ?_)
    have := readableWhileBusy_lt hr
    omega

/-! ### Reads have no side effects (R97, R99) -/

/-- No word of the block reads the port's read data. -/
theorem readTarget_withRdata (s : State) (r : Word) (off : Nat) (tg : Target) :
    State.readTarget { s with rdata := r } off tg = s.readTarget off tg := by
  cases tg with
  | control c => cases c <;> rfl
  | ecValue slot _ => cases slot <;> rfl
  | res | bank | table | unmapped => rfl

/-- An idle read does not depend on the read data it replaces. -/
theorem hostRead_withRdata {s : State} (hb : s.busy = false) {off : Nat} (ha : off % 4 = 0)
    (hm : targetOf off ≠ .unmapped) (r : Word) : State.hostRead { s with rdata := r } off 4 = s.hostRead off 4 := by
  rw [hostRead_idle (s := { s with rdata := r }) hb ha rfl hm, readTarget_withRdata, hostRead_idle hb ha rfl hm]

/-- Settles O53: by the three answers a read can give; an idle one does not depend on the read data it replaces. -/
theorem readsHaveNoSideEffects : Obligations.ReadsHaveNoSideEffects := by
  intro s off size
  refine ⟨?_, fun hv hb => ?_⟩
  · rcases hostRead_cases s off size with ⟨hv, h⟩ | ⟨hv, -, -, h⟩ | ⟨hv, -, h⟩
    · exact ⟨_, _, by rw [h, hv, Bool.not_false, Bool.or_true]; rfl⟩
    · exact ⟨_, _, by rw [h, hv, Bool.not_true, Bool.or_false]⟩
    · exact ⟨_, _, by rw [h, hv, Bool.not_true, Bool.or_false]⟩
  · obtain ⟨rfl, ha, hm⟩ := (accessValid_iff off size).mp hv
    have hread := hostRead_idle hb ha rfl hm
    calc (s.hostRead off 4).hostRead off 4
        = State.hostRead { s with rdata := s.readTarget off (targetOf off) } off 4 := by rw [hread]
      _ = s.hostRead off 4 := hostRead_withRdata hb ha hm _

/-! ### A step by its event (R94, R103, R151, R152, R340) -/

theorem inWindow_iff (off : Nat) : inWindow off = true ↔ off < 0x1C000 := decide_eq_true_iff

/-- With a command's word pending, the engine's turn is that command (R152). -/
theorem engineTurn_command {s : State} {w : Word} {i : Instr} (hp : s.pend = some w) (hd : decode w = .ok i) :
    engineTurn s = exec i s := by
  rw [engineTurn_pending hp, executeWord_ok hd]

/-- At an engine event the step is the engine's turn without that event (log entry 1). -/
theorem step_engine {s : State} {rest : List Event} (h : s.inputs = .engine :: rest) :
    step s = engineTurn { s with inputs := rest } := by
  rw [step_cons h, eventStep]

/-- After a word is placed, the next step is the engine's turn on the state that accepted it (R150, log entry 2). -/
theorem step_withFetchWord (s : State) (nbits w : Nat) :
    step (s.withFetchWord nbits w) = engineTurn (s.accept (tableWord nbits w)) := by
  cases h : s.inputs with
  | nil =>
    have hfetch : s.withFetchWord nbits w = s.accept (tableWord nbits w) := by
      rw [State.withFetchWord, h, engineFirst, ← h]
      rfl
    rw [hfetch, step_nil (s := s.accept _) h]
  | cons e es =>
    have hinputs : (s.withFetchWord nbits w).inputs = .engine :: s.inputs := by
      rw [State.withFetchWord, h, engineFirst]
    rw [step_engine hinputs]
    rfl

/-- A 32-bit word laid out in 32 bits is itself (R120). -/
theorem tableWord_toNat (w : Word) : tableWord 32 w.toNat = w := by
  rw [tableWord, Nat.mod_eq_of_lt w.isLt, BitVec.ofNat_toNat, BitVec.setWidth_eq]

/-- Settles O5: a step by its event, and the engine's turn by the pending word. -/
theorem stepRunsTheDecodedCommand : Obligations.StepRunsTheDecodedCommand := by
  refine ⟨fun s w i hp hd => ⟨fun h => ?_, fun rest h => ?_⟩, fun s i => ?_,
    fun s hp => ⟨fun h => ?_, fun rest h => ?_⟩, fun s rest off size v => ⟨fun h => ?_, fun h => ?_, step_cons⟩⟩
  · rw [step_nil h, engineTurn_command hp hd]
  · rw [step_engine h, engineTurn_command (s := { s with inputs := rest }) hp hd]
  · rw [step_withFetchWord, tableWord_toNat]
    exact engineTurn_command rfl (decode_encode i)
  · rw [step_nil h, engineTurn_idle hp]
  · rw [step_engine h, engineTurn_idle (s := { s with inputs := rest }) hp]
  · rw [step_cons h, eventStep, busReadStep]
    exact if_congr (inWindow_iff off) rfl rfl
  · rw [step_cons h, eventStep, busWriteStep]
    exact if_congr (inWindow_iff off) rfl rfl

end Sys2Proof.Machine

/-! SUPPORT. Command words: what the decoder answers, said once, and the words of R127 against it (R121–R128). -/

namespace Sys2Proof

/-! ### What the decoder answers (R123, R126, R128) -/

/-- Every opcode of the map names a command (R126). -/
theorem exists_commandOf {w : Word} {f : Format} (h : formatOfOpcode (opcodeOf w) = some f) :
    ∃ i, commandOf w = some i := by
  rw [commandOf]
  split
  case h_20 => simp [formatOfOpcode] at h
  all_goals exact ⟨_, rfl⟩

/-- Everything `decode` can answer: a reserved opcode, a must-be-zero bit that is 1, or a command. -/
theorem decode_cases (w : Word) :
    (formatOfOpcode (opcodeOf w) = none ∧ decode w = .error .reservedOpcode) ∨
      ∃ f, formatOfOpcode (opcodeOf w) = some f ∧
        ((w &&& f.mask ≠ BitVec.ofNat 32 (opcodeOf w) ∧ decode w = .error .mustBeZero) ∨
          (w &&& f.mask = BitVec.ofNat 32 (opcodeOf w) ∧ ∃ i, commandOf w = some i ∧ decode w = .ok i)) := by
  rcases hf : formatOfOpcode (opcodeOf w) with _ | f
  · exact .inl ⟨rfl, by rw [decode, wordFault?, hf]⟩
  · refine .inr ⟨f, rfl, ?_⟩
    by_cases hmask : w &&& f.mask = BitVec.ofNat 32 (opcodeOf w)
    · have hlegal : wordFault? w = none := by
        rw [wordFault?, hf]
        exact if_pos hmask
      obtain ⟨i, hi⟩ := exists_commandOf hf
      exact .inr ⟨hmask, i, hi, by rw [decode, hlegal, hi]⟩
    · have hfault : wordFault? w = some .mustBeZero := by
        rw [wordFault?, hf]
        exact if_neg hmask
      exact .inl ⟨hmask, by rw [decode, hfault]⟩

/-- A word that decodes has the fixed bits of its format, and the opcode map reads the command from it (R123, R126). -/
theorem decode_eq_ok {w : Word} {i : Instr} (h : decode w = .ok i) :
    ∃ f, formatOfOpcode (opcodeOf w) = some f ∧ w &&& f.mask = BitVec.ofNat 32 (opcodeOf w) ∧ commandOf w = some i := by
  rcases decode_cases w with ⟨-, he⟩ | ⟨f, hf, ⟨-, he⟩ | ⟨hmask, j, hj, hok⟩⟩
  · rw [he] at h
    cases h
  · rw [he] at h
    cases h
  · rw [hok] at h
    cases h
    exact ⟨f, hf, hmask, hj⟩

/-- The opcode is reserved exactly when it is not in the map (R128). -/
theorem decode_eq_reserved_iff (w : Word) :
    decode w = .error .reservedOpcode ↔ formatOfOpcode (opcodeOf w) = none := by
  rcases decode_cases w with ⟨hnone, he⟩ | ⟨f, hf, ⟨-, he⟩ | ⟨-, i, -, he⟩⟩
  · exact iff_of_true he hnone
  · rw [he, hf]
    exact iff_of_false nofun nofun
  · rw [he, hf]
    exact iff_of_false nofun nofun

/-! ### A legal word is built from its fields (R123, R124) -/

theorem field_toNat (w : Word) (k n : Nat) : (w.extractLsb' k n).toNat = w.toNat / 2 ^ k % 2 ^ n := by
  rw [BitVec.extractLsb'_toNat, Nat.shiftRight_eq_div_pow]

/-- The fields of a word, as parts of its number. -/
theorem fields_toNat (w : Word) :
    opcodeOf w = w.toNat % 2 ^ 8 ∧ (fieldRd w : Nat) = w.toNat / 2 ^ 8 % 4 ∧ (fieldRs1 w : Nat) = w.toNat / 2 ^ 10 % 4
      ∧ (fieldRs2 w : Nat) = w.toNat / 2 ^ 12 % 4 ∧ (w.getLsbD 14).toNat = w.toNat / 2 ^ 14 % 2 := by
  refine ⟨?_, field_toNat w 8 2, field_toNat w 10 2, field_toNat w 12 2, Nat.toNat_testBit _ _⟩
  rw [opcodeOf, field_toNat]
  omega

/-- A field above the opcode that lies in the mask is zero in a legal word. -/
theorem field_eq_zero_of_mask {w mask : Word} (h : w &&& mask = BitVec.ofNat 32 (opcodeOf w)) {k n : Nat} (hk : 8 ≤ k)
    (hmask : mask.extractLsb' k n = BitVec.allOnes n) : w.toNat / 2 ^ k % 2 ^ n = 0 := by
  have hopc : opcodeOf w < 2 ^ k :=
    (fields_toNat w).1 ▸ (Nat.mod_lt _ (by decide)).trans_le (Nat.pow_le_pow_right (by decide) hk)
  have hand : w.extractLsb' k n = (BitVec.ofNat 32 (opcodeOf w)).extractLsb' k n := by
    rw [← h, BitVec.extractLsb'_and, hmask, BitVec.and_allOnes]
  rw [← field_toNat, hand, field_toNat, BitVec.toNat_ofNat,
    Nat.div_eq_of_lt ((Nat.mod_le _ _).trans_lt hopc), Nat.zero_mod]

/-- No format has an operand above bit 14, so a legal word ends there. -/
theorem toNat_lt_of_mask {w : Word} {f : Format} (h : w &&& f.mask = BitVec.ofNat 32 (opcodeOf w)) :
    w.toNat < 2 ^ 15 := by
  have hhigh := field_eq_zero_of_mask h (k := 15) (n := 17) (by decide) (by cases f <;> decide)
  have hw := w.isLt
  omega

/-- A command's word is a legal word that has its opcode and the fields its word is built from. -/
theorem encode_eq_of_fields {w : Word} {i : Instr} {rd rs1 rs2 m : Nat}
    (he : encode i = buildWord (opcodeFor i) rd rs1 rs2 m) (hw : w.toNat < 2 ^ 15) (hopc : opcodeOf w = opcodeFor i)
    (hrd : w.toNat / 2 ^ 8 % 4 = rd) (hrs1 : w.toNat / 2 ^ 10 % 4 = rs1) (hrs2 : w.toNat / 2 ^ 12 % 4 = rs2)
    (hm : w.toNat / 2 ^ 14 % 2 = m) : encode i = w := by
  refine BitVec.eq_of_toNat_eq ?_
  rw [he, buildWord_toNat (opcodeFor_lt i) (by omega) (by omega) (by omega) (by omega), ← hopc, (fields_toNat w).1]
  omega

theorem tableBit_fieldTable (w : Word) : tableBit (fieldTable w) = (w.getLsbD 14).toNat := by
  rw [fieldTable]
  cases w.getLsbD 14 <;> rfl

theorem codingBit_fieldCoding (w : Word) : codingBit (fieldCoding w) = (w.getLsbD 14).toNat := by
  rw [fieldCoding]
  cases w.getLsbD 14 <;> rfl

/-- The word of the command that the opcode map reads from a legal word is that word: the operands are its fields, and
the other fields are zero by its format's mask (R123, R126). -/
theorem encode_commandOf {w : Word} {f : Format} {i : Instr} (hf : formatOfOpcode (opcodeOf w) = some f)
    (hmask : w &&& f.mask = BitVec.ofNat 32 (opcodeOf w)) (hi : commandOf w = some i) : encode i = w := by
  have hw := toNat_lt_of_mask hmask
  obtain ⟨-, hrd, hrs1, hrs2, hbit⟩ := fields_toNat w
  have noRd := field_eq_zero_of_mask hmask (k := 8) (n := 2) (by decide)
  have noRs1 := field_eq_zero_of_mask hmask (k := 10) (n := 2) (by decide)
  have noRs2 := field_eq_zero_of_mask hmask (k := 12) (n := 2) (by decide)
  have noM := field_eq_zero_of_mask hmask (k := 14) (n := 1) (by decide)
  rw [commandOf] at hi
  split at hi
  case h_20 => cases hi
  all_goals
    rename_i hopc
    rw [hopc] at hf
    injection hi with hi
    injection hf with hf
    subst hi hf
  -- formats Z, B3 and P3, B2 and P2, BT, PM and RM, in the order of the cases
  case h_1 | h_2 | h_3 | h_4 | h_16 =>
    exact encode_eq_of_fields rfl hw ‹_› (noRd (by decide)) (noRs1 (by decide)) (noRs2 (by decide)) (noM (by decide))
  case h_5 | h_14 | h_18 => exact encode_eq_of_fields rfl hw ‹_› hrd.symm hrs1.symm hrs2.symm (noM (by decide))
  case h_7 | h_9 | h_10 | h_11 | h_12 | h_13 | h_17 =>
    exact encode_eq_of_fields rfl hw ‹_› hrd.symm hrs1.symm (noRs2 (by decide)) (noM (by decide))
  case h_6 | h_8 =>
    exact encode_eq_of_fields rfl hw ‹_› hrd.symm hrs1.symm (noRs2 (by decide)) (hbit ▸ (tableBit_fieldTable w).symm)
  case h_19 =>
    exact encode_eq_of_fields rfl hw ‹_› hrd.symm hrs1.symm (noRs2 (by decide)) (hbit ▸ (codingBit_fieldCoding w).symm)
  case h_15 =>
    exact encode_eq_of_fields rfl hw ‹_› (noRd (by decide)) (noRs1 (by decide)) (noRs2 (by decide))
      (hbit ▸ (codingBit_fieldCoding w).symm)

/-- Settles O1: each operand reads back from its field of the word. -/
theorem decodeOfEncode : Obligations.DecodeOfEncode := decode_encode

/-- Settles O2: a legal word is built from its fields. -/
theorem encodeOfDecode : Obligations.EncodeOfDecode := by
  intro w i h
  obtain ⟨f, hf, hmask, hi⟩ := decode_eq_ok h
  exact encode_commandOf hf hmask hi

/-- Settles O4: the legal words are those of the commands named, and the other two are refused. -/
theorem sampleWordsDecode : Obligations.SampleWordsDecode :=
  ⟨decode_encode .rootgen, decode_encode (.nttf 1 0), decode_encode (.pmul 2 0 1), decode_encode (.xform 3 3 .inv),
    decode_encode (.rcinit .bin), decode_encode (.ecdbl 1 0), decode_encode (.ecadd 2 0 1),
    decode_encode (.ecmul 3 0 .naf), by decide, by decide⟩

/-! ### The table of patterns (R127) -/

/-- Every row of R127's table is an opcode of R126 with the mask of its format, and selects the opcode's byte. -/
theorem patternTable_row {r : PatternRow} (h : r ∈ patternTable) :
    opcodeOf r.pattern = r.pattern.toNat ∧ r.mask.extractLsb' 0 8 = BitVec.allOnes 8 ∧
      (formatOfOpcode r.pattern.toNat).map Format.mask = some r.mask := by
  revert r
  decide

/-- Every opcode of R126 has its row in R127's table. -/
theorem mem_patternTable {opc : Nat} {f : Format} (h : formatOfOpcode opc = some f) :
    ⟨BitVec.ofNat 32 opc, f.mask⟩ ∈ patternTable ∧ opc < 2 ^ 8 := by
  rw [formatOfOpcode.eq_def] at h
  split at h
  case h_20 => cases h
  all_goals
    injection h with h
    subst h
    decide

/-- A word that matches a row has the row's opcode. -/
theorem opcodeOf_of_row {w : Word} {r : PatternRow} (hr : r ∈ patternTable) (h : w &&& r.mask = r.pattern) :
    opcodeOf w = r.pattern.toNat := by
  obtain ⟨hpattern, hbyte, -⟩ := patternTable_row hr
  rw [← hpattern, ← h, opcodeOf, opcodeOf, BitVec.extractLsb'_and, hbyte, BitVec.and_allOnes]

/-- A word decodes exactly when it matches a row of R127. -/
theorem exists_decode_eq_ok_iff (w : Word) :
    (∃ i, decode w = .ok i) ↔ ∃ r ∈ patternTable, w &&& r.mask = r.pattern := by
  constructor
  · rintro ⟨i, h⟩
    obtain ⟨f, hf, hmask, -⟩ := decode_eq_ok h
    exact ⟨_, (mem_patternTable hf).1, hmask⟩
  · rintro ⟨r, hr, h⟩
    obtain ⟨-, -, hrow⟩ := patternTable_row hr
    obtain ⟨g, hg, hgmask⟩ := Option.map_eq_some_iff.mp hrow
    rw [← opcodeOf_of_row hr h] at hg
    rcases decode_cases w with ⟨hnone, -⟩ | ⟨f, hf, ⟨hmask, -⟩ | ⟨-, i, -, hok⟩⟩
    · rw [hg] at hnone
      cases hnone
    · rw [hg] at hf
      cases hf
      refine absurd ?_ hmask
      rw [hgmask, h, opcodeOf_of_row hr h, BitVec.ofNat_toNat, BitVec.setWidth_eq]
    · exact ⟨i, hok⟩

/-- Settles O3: the rows of R127 are the opcodes of R126 with the masks of their formats. -/
theorem legalWordsAreThoseOfThePatternTable : Obligations.LegalWordsAreThoseOfThePatternTable := by
  intro w
  refine ⟨exists_decode_eq_ok_iff w, (decode_eq_reserved_iff w).trans ?_⟩
  constructor
  · intro hnone r hr (hopc : opcodeOf w = r.pattern.toNat)
    obtain ⟨-, -, hrow⟩ := patternTable_row hr
    rw [← hopc, hnone] at hrow
    cases hrow
  · intro hnone
    refine Option.eq_none_iff_forall_ne_some.mpr fun f hf => ?_
    obtain ⟨hrow, hlt⟩ := mem_patternTable hf
    refine hnone _ hrow ?_
    rw [BitVec.toNat_ofNat, Nat.mod_eq_of_lt (hlt.trans (by decide))]
    rfl

/-- A word is well formed exactly when it decodes (R128). -/
theorem wordWellFormed_iff (w : Word) : wordWellFormed w = true ↔ ∃ i, decode w = .ok i := by
  rw [exists_decode_eq_ok_iff, wordWellFormed, matchingRows, Bool.not_eq_true', List.isEmpty_eq_false_iff, ne_eq,
    List.filter_eq_nil_iff]
  simp only [decide_eq_true_eq, not_forall, not_not, exists_prop]

end Sys2Proof

namespace Sys2Proof.Machine

/-- With an illegal word pending, the engine's turn reports ILLEGAL and changes nothing but STATUS (R128, R152). -/
theorem engineTurn_illegal {s : State} {w : Word} (hp : s.pend = some w) (hw : wordWellFormed w = false) :
    engineTurn s = .next (onlyStatus s .illegal) := by
  rcases hd : decode w with r | i
  · rw [engineTurn_pending hp, executeWord_error hd]
    rfl
  · rw [(wordWellFormed_iff w).mpr ⟨i, hd⟩] at hw
    cases hw

/-- Settles O6: the engine's turn on the illegal word, taken with or without an event. -/
theorem illegalWordChangesOnlyStatus : Obligations.IllegalWordChangesOnlyStatus := by
  intro s w hp hw
  refine ⟨engineTurn_illegal hp hw, fun h => ?_, fun rest h => ?_⟩
  · rw [step_nil h, engineTurn_illegal hp hw]
  · rw [step_engine h, engineTurn_illegal (s := { s with inputs := rest }) hp hw]

end Sys2Proof.Machine

/-! SUPPORT. Bank commands one after another: what a second command reads of the results of the first (R57, R132). -/

namespace Sys2Proof.Machine

/-! ### Results that a bank holds in full (R8, R57) -/

/-- Every entry is a residue mod q. -/
def AllResidues (q : Nat) (c : List Int) : Prop := ∀ x ∈ c, ∃ z, x = zmod q z

/-- Every entry is a signed number of `w` bits, so that a bank holds it in full. -/
def AllFit (w : Nat) (c : List Int) : Prop := ∀ x ∈ c, -2 ^ (w - 1) ≤ x ∧ x < 2 ^ (w - 1)

theorem AllResidues.allFit {s : State} (hm : s.modulusOk = true) {c : List Int} (h : AllResidues s.modulus c) :
    AllFit s.width c := by
  intro x hx
  obtain ⟨z, rfl⟩ := h x hx
  exact zmod_fits hm z

theorem AllResidues.append {q : Nat} {a b : List Int} (ha : AllResidues q a) (hb : AllResidues q b) :
    AllResidues q (a ++ b) := fun x hx => (List.mem_append.mp hx).elim (ha x) (hb x)

/-- A list made entry by entry from two others holds residues when its entries do. -/
theorem allResidues_zipWith {q : Nat} {f : Int → Int → Int} (hf : ∀ x y, ∃ z, f x y = zmod q z) (a b : List Int) :
    AllResidues q (List.zipWith f a b) := by
  intro x hx
  obtain ⟨i, hi, rfl⟩ := List.getElem_of_mem hx
  rw [List.getElem_zipWith]
  exact hf _ _

theorem pmulSeq_residues (q : Nat) (a b : List Int) : AllResidues q (pmulSeq q a b) :=
  allResidues_zipWith (fun _ _ => ⟨_, rfl⟩) a b

theorem reduceSeq_residues (q : Nat) (a : List Int) : AllResidues q (reduceSeq q a) := by
  intro x hx
  obtain ⟨z, -, rfl⟩ := List.mem_map.mp hx
  exact ⟨z, rfl⟩

theorem butterfly_residues (q : Nat) (ws u v : List Int) : AllResidues q (butterfly q ws u v) :=
  (allResidues_zipWith (fun _ _ => ⟨_, rfl⟩) _ _).append (allResidues_zipWith (fun _ _ => ⟨_, rfl⟩) _ _)

theorem blocks_residues (q half : Nat) (ws : List Int) (k : Nat) (v : List Int) :
    AllResidues q (blocks q half ws k v) := by
  induction k generalizing v with
  | zero => exact nofun
  | succ k ih => exact (butterfly_residues _ _ _ _).append (ih _)

/-- Every pass of R199 leaves residues. -/
theorem xformSeq_residues (q l : Nat) (tw a : List Int) : AllResidues q (xformSeq q l tw a) := by
  cases l with
  | zero => exact reduceSeq_residues q a
  | succ l => exact blocks_residues _ _ _ _ _

/-- What a bank command reads fits the width it is read with (R57). -/
theorem State.coefs_allFit (s : State) (b : Fin 4) : AllFit s.width (s.coefs b) := by
  intro x hx
  obtain ⟨v, -, rfl⟩ := List.mem_map.mp hx
  exact ⟨BitVec.le_toInt _, BitVec.toInt_lt⟩

/-- BITREV reorders its coefficients. -/
theorem AllFit.bitrevSeq {w : Nat} {a : List Int} (h : AllFit w a) (l : Nat) : AllFit w (bitrevSeq l a) := by
  intro x hx
  obtain ⟨i, -, rfl⟩ := List.mem_map.mp hx
  rw [List.getD_eq_getElem?_getD]
  rcases hi : a[revBits l i]? with _ | y
  · have hpos : (0 : Int) < 2 ^ (w - 1) := by positivity
    exact ⟨by simp, hpos⟩
  · exact h y (List.mem_of_getElem? hi)

theorem State.lengthOk_of_check {s : State} (h : s.nttCheck .length = true) : s.lengthOk = true :=
  ((State.nttCheck_iff s .length).mp h).2.1 nofun

/-! ### A second bank command reads the results of the first -/

/-- The state after a bank command that has written `c` to Bank[d] and completed with OK. -/
def State.bankDone (s : State) (d : Fin 4) (c : List Int) : State := (s.writeBank d c).complete .ok

/-- The whole bank reads back. -/
theorem State.coefs_bankDone {s : State} (hm : s.modulusOk = true) (d : Fin 4) {cs : List Int}
    (hlen : cs.length = s.len) (hfit : AllFit s.width cs) : (s.bankDone d cs).coefs d = cs := by
  refine List.ext_getElem (by rw [State.coefs_length]; exact hlen.symm) fun i _ hi => ?_
  obtain ⟨hlo, hhi⟩ := hfit (cs[i]) (List.getElem_mem hi)
  rw [State.coefs_getElem, State.bankDone, State.coef_complete, State.coef_writeBank hm d cs i hi hlo hhi]

/-- The tables lie above the banks. -/
theorem State.twiddles_bankDone {s : State} (hl : s.lengthOk = true) (d : Fin 4) {c : List Int}
    (hlen : c.length = s.len) (t : Table) : (s.bankDone d c).twiddles t = s.twiddles t := by
  have hbank := bankBase_bounds d
  have htable := tableBase_bounds t
  have hn := State.len_le hl
  have hcell (i : Nat) : (s.bankDone d c).cellAt (tableBase t) i = s.cellAt (tableBase t) i :=
    State.cellAt_congr fun k _ => State.byteAt_writeBank_outside s d c _ (by omega)
  rw [State.twiddles_eq, State.twiddles_eq]
  exact List.map_congr_left fun i _ => congrArg (sint s.width) (hcell i)

/-- A second bank command on the same bank leaves the state it would leave alone with those results. -/
theorem bankCommand_bankDone {l : CheckLevel} {s : State} (h : s.nttCheck l = true) (d : Fin 4) {c r : List Int}
    (hlen : c.length = r.length) : bankCommand l d r (s.bankDone d c) = .next (s.bankDone d r) := by
  have hcheck : (s.bankDone d c).nttCheck l = true := by
    rw [State.bankDone, State.complete_nttCheck, State.writeBank_nttCheck, h]
  have hmem : ((s.bankDone d c).writeBank d r).mem = (s.writeBank d r).mem :=
    Memory.store_store _ _ _ _ (by rw [cellBytes_length, cellBytes_length, List.length_map, List.length_map, hlen])
  have hstate : ((s.bankDone d c).writeBank d r).complete .ok = s.bankDone d r :=
    calc ((s.bankDone d c).writeBank d r).complete .ok
        = { s.bankDone d r with mem := ((s.bankDone d c).writeBank d r).mem } := rfl
      _ = s.bankDone d r := by rw [hmem]; rfl
  rw [bankCommand_ok hcheck, hstate]

/-! ### The composite transforms as sequences (R132, R210, R212) -/

/-- Settles O26: each command reads the whole result of the one before, and the last write covers the others. -/
theorem nttfIsItsPrimitiveSequence : Obligations.NttfIsItsPrimitiveSequence := by
  intro s rd rs1 h
  have hlevel1 := State.nttCheck_length_of_tables h
  have hm := State.modulusOk_of_check h
  have hl := State.lengthOk_of_check hlevel1
  let c₁ := pmulSeq s.modulus (s.coefs rs1) (s.twiddles .fwd)
  let c₂ := bitrevSeq s.logn c₁
  let c₃ := xformSeq s.modulus s.logn (s.twiddles .fwd) c₂
  have hlen₁ : c₁.length = s.len := by simp [c₁]
  have hlen₂ : c₂.length = s.len := bitrevSeq_length _ _
  have hlen₃ : c₃.length = s.len := xformSeq_length _ _ _ _ hlen₂
  have hfit₁ : AllFit s.width c₁ := (pmulSeq_residues _ _ _).allFit hm
  refine ⟨s.bankDone rd c₁, s.bankDone rd c₂, s.bankDone rd c₃, bankCommand_ok h _ _, ?_, ?_, bankCommand_ok h _ _⟩
  · rw [exec, execBitrev, State.coefs_bankDone hm rd hlen₁ hfit₁]
    exact bankCommand_bankDone hlevel1 rd (hlen₁.trans hlen₂.symm)
  · rw [exec, execXform, State.coefs_bankDone hm rd hlen₂ (hfit₁.bitrevSeq _), State.twiddles_bankDone hl rd hlen₂]
    exact bankCommand_bankDone h rd (hlen₂.trans hlen₃.symm)

/-- Settles O27: as O26, over the table INV; BITREV's coefficients are as read, not reduced. -/
theorem nttiIsItsPrimitiveSequence : Obligations.NttiIsItsPrimitiveSequence := by
  intro s rd rs1 h
  have hlevel1 := State.nttCheck_length_of_tables h
  have hm := State.modulusOk_of_check h
  have hl := State.lengthOk_of_check hlevel1
  let c₁ := bitrevSeq s.logn (s.coefs rs1)
  let c₂ := xformSeq s.modulus s.logn (s.twiddles .inv) c₁
  let c₃ := pmulSeq s.modulus c₂ (s.twiddles .inv)
  let c₄ := scaleSeq s.modulus s.nttNinv.toNat c₃
  have hlen₁ : c₁.length = s.len := bitrevSeq_length _ _
  have hlen₂ : c₂.length = s.len := xformSeq_length _ _ _ _ hlen₁
  have hlen₃ : c₃.length = s.len := by simp [c₃, hlen₂]
  have hlen₄ : c₄.length = s.len := by simp [c₄, hlen₃]
  refine ⟨s.bankDone rd c₁, s.bankDone rd c₂, s.bankDone rd c₃, s.bankDone rd c₄, bankCommand_ok hlevel1 _ _,
    ?_, ?_, ?_, bankCommand_ok h _ _⟩
  · rw [exec, execXform, State.coefs_bankDone hm rd hlen₁ ((State.coefs_allFit s rs1).bitrevSeq _),
      State.twiddles_bankDone hl rd hlen₁]
    exact bankCommand_bankDone h rd (hlen₁.trans hlen₂.symm)
  · rw [exec, execTwmul, State.coefs_bankDone hm rd hlen₂ ((xformSeq_residues _ _ _ _).allFit hm),
      State.twiddles_bankDone hl rd hlen₂]
    exact bankCommand_bankDone h rd (hlen₂.trans hlen₃.symm)
  · rw [exec, execScale, State.coefs_bankDone hm rd hlen₃ ((pmulSeq_residues _ _ _).allFit hm)]
    exact bankCommand_bankDone h rd (hlen₃.trans hlen₄.symm)

end Sys2Proof.Machine

/-! SUPPORT. What ECMUL writes: the registers of the recoder and DUMMY after the digit loop, and the loop as the relation
of R268 (R243, R268, R270). -/

namespace Sys2Proof.Machine

/-! ### The recoding as digits (R241) -/

theorem nafDigits_digit {v : Nat} {z : Int} (h : z ∈ nafDigits v) : z = -1 ∨ z = 0 ∨ z = 1 := by
  rcases Nat.eq_zero_or_pos v with rfl | hv
  · cases h
  · obtain ⟨zs, hzs, -, hdigits⟩ := nafDigits_of_pos hv
    rcases List.mem_cons.mp (hzs ▸ h) with rfl | hz
    · exact .inr (.inr rfl)
    · exact hdigits z hz

/-! ### The state after the loop (R243) -/

/-- A loop over the whole cursor ends with it empty, with RC_REMAIN = 0 and RC_SYM the last symbol, and writes nothing
else but DUMMY. -/
theorem ecmulLoop_st (p : Nat) (a : Int) (base : Affine) {ys : List Symbol} {c : MulLoop}
    (hseq : c.st.cur.seq = ys) (hremain : c.st.rcRemain = BitVec.ofNat 10 ys.length) :
    (ecmulLoop p a base ys c).st = { c.st with
      cur := { c.st.cur with seq := [] }, rcRemain := 0, rcSym := ys.getLastD c.st.rcSym
      dummy := (ecmulLoop p a base ys c).st.dummy } := by
  induction ys generalizing c with
  | nil =>
    have hcur : { c.st.cur with seq := [] } = c.st.cur := by rw [← hseq]
    have hzero : 0 = c.st.rcRemain := hremain.symm
    rw [ecmulLoop, List.getLastD_nil, hcur, hzero]
  | cons y rest ih =>
    obtain ⟨d, hpass⟩ := ecmulPass_st p a base y rest c
    have hrest := ih (c := ecmulPass p a base y rest c) (by rw [hpass]; rfl) (by rw [hpass]; rfl)
    rw [ecmulLoop, List.getLastD_cons]
    exact hrest.trans (by rw [hpass]; rfl)

theorem ecmulBody_st (p : Nat) (a : Int) (base : Affine) (s : State) (m : Coding) :
    (ecmulBody p a base (s.loadCursor m)).st = { s.loadCursor m with
      cur := { mode := m, seq := [] }, rcRemain := 0, rcSym := (recode s.secret m).getLastD s.rcSym
      dummy := (ecmulBody p a base (s.loadCursor m)).st.dummy } := by
  have hseq : (s.loadCursor m).cur.seq = recode s.secret m := rfl
  rw [ecmulBody, hseq]
  rcases hys : recode s.secret m with _ | ⟨y, rest⟩
  · simp only [State.loadCursor, hys]
    rfl
  · rw [List.getLastD_cons]
    exact ecmulLoop_st p a base (ys := rest) (c := ⟨base, false, (s.loadCursor m).pulled y rest⟩) rfl rfl

/-! ### Reduced coordinates (R260) -/

/-- Both coordinates are in [0, P). -/
def Affine.Reduced (p : Nat) (r : Affine) : Prop := 0 ≤ r.x ∧ r.x < p ∧ 0 ≤ r.y ∧ r.y < p

theorem reduced_zmod {p : Nat} (hp : 0 < p) (x y : Int) : Affine.Reduced p ⟨zmod p x, zmod p y⟩ :=
  ⟨zmod_nonneg hp x, zmod_lt hp x, zmod_nonneg hp y, zmod_lt hp y⟩

theorem reduced_zero {p : Nat} (hp : 0 < p) : Affine.Reduced p ⟨0, 0⟩ :=
  ⟨le_rfl, Int.natCast_pos.mpr hp, le_rfl, Int.natCast_pos.mpr hp⟩

theorem ecDbl_reduced {p : Nat} (hp : 0 < p) (a : Int) (r : Affine) : (ecDbl p a r).1.Reduced p := by
  rw [ecDbl]
  split
  · exact reduced_zero hp
  · exact reduced_zmod hp _ _

theorem ecAdd_reduced {p : Nat} (hp : 0 < p) (r r' : Affine) : (ecAdd p r r').1.Reduced p := reduced_zmod hp _ _

theorem ecmulLoop_reduced {p : Nat} (hp : 0 < p) (a : Int) (base : Affine) {ys : List Symbol} {c : MulLoop}
    (h : c.acc.Reduced p) : (ecmulLoop p a base ys c).acc.Reduced p := by
  induction ys generalizing c with
  | nil => exact h
  | cons y rest ih =>
    refine ih (c := ecmulPass p a base y rest c) ?_
    rw [ecmulPass]
    split
    · exact ecAdd_reduced hp _ _
    · exact ecDbl_reduced hp a _

/-! ### The loop as the relation of R268 -/

/-- What a pass of R268 adds to the double: −base for the digit −1, and base for the others. -/
def digitAddend (p : Nat) (base : Affine) (z : Int) : Affine := ⟨base.x, if z = -1 then (-base.y) % p else base.y⟩

/-- A pass by its digit: the sum becomes the accumulator when the digit is not 0, and DUMMY when it is (R268, R270). -/
theorem ecmulPass_digit (p : Nat) (a : Int) (base : Affine) {z : Int} (hz : z = -1 ∨ z = 0 ∨ z = 1)
    (rest : List Symbol) (c : MulLoop) :
    let d := ecDbl p a c.acc
    let q := ecAdd p d.1 (digitAddend p base z)
    let st := c.st.pulled (symbolOf z) rest
    ecmulPass p a base (symbolOf z) rest c =
      if z = 0 then ⟨d.1, c.noinv || d.2 || q.2, st.setDummy q.1⟩ else ⟨q.1, c.noinv || d.2 || q.2, st⟩ := by
  rcases hz with rfl | rfl | rfl <;> rfl

/-- The digit loop is R268's, over the digits its symbols stand for; NOINV stays flagged once it is. -/
theorem ecmulLoop_digitLoop {p : Nat} (hp : 2 ≤ p) (a : Int) (base : Affine) {zs : List Int} {c : MulLoop}
    (hzs : ∀ z ∈ zs, z = -1 ∨ z = 0 ∨ z = 1) :
    let r := ecmulLoop p a base (zs.map symbolOf) c
    ∃ missing, DigitLoop p a base.x base.y zs c.acc.x c.acc.y c.st.dummy r.acc.x r.acc.y r.st.dummy missing
      ∧ r.noinv = (c.noinv || missing) := by
  induction zs generalizing c with
  | nil => exact ⟨false, ⟨rfl, rfl, rfl, rfl⟩, (Bool.or_false _).symm⟩
  | cons z rest ih =>
    obtain ⟨hz, hrest⟩ := List.forall_mem_cons.mp hzs
    have hpass := ecmulPass_digit p a base hz (rest.map symbolOf) c
    obtain ⟨m₃, hloop, hm₃⟩ := ih (c := ecmulPass p a base (symbolOf z) (rest.map symbolOf) c) hrest
    refine ⟨_, ⟨_, _, _, _, _, _, m₃, ecDbl_doublesTo hp a c.acc, ecAdd_addsTo hp _ (digitAddend p base z), ?_, rfl⟩,
      ?_⟩
    · rw [List.map_cons, ecmulLoop]
      by_cases h0 : z = 0
      · rw [if_pos h0]
        rw [hpass, if_pos h0] at hloop ⊢
        exact hloop
      · rw [if_neg h0]
        rw [hpass, if_neg h0] at hloop ⊢
        exact hloop
    · rw [List.map_cons, ecmulLoop, hm₃, hpass]
      split <;> simp only [Bool.or_assoc]

/-! ### ECMUL (R243, R268, R270) -/

/-- ECMUL's word (R127). -/
theorem encode_ecmul (rd rs1 : Fin 4) (m : Coding) :
    encode (.ecmul rd rs1 m) = BitVec.ofNat 32 (0x32 + 256 * rd + 1024 * rs1 + if m = .bin then 16384 else 0) := by
  revert rd rs1
  cases m <;> decide

/-- The state an ECMUL leaves whose checks pass. -/
theorem exec_ecmul_next {rd rs1 : Fin 4} {m : Coding} {s : State} (hp : 3 ≤ s.ecP.toNat)
    (hk : s.ecKbits.toNat ≤ 576) :
    let r := ecmulBody s.ecModulus s.curveA (s.point rs1) (s.loadCursor m)
    exec (.ecmul rd rs1 m) s = .next { onlyStatus s (if r.noinv then .noinv else .ok) with
      pt := s.pt.set rd ⟨BitVec.ofInt 576 r.acc.x, BitVec.ofInt 576 r.acc.y⟩, cur := { mode := m, seq := [] }
      rcCount := BitVec.ofNat 10 (recode s.secret m).length, rcRemain := 0
      rcSym := (recode s.secret m).getLastD s.rcSym, dummy := r.st.dummy } := by
  intro r
  have hcheck : (s.ecModulusOk && s.kbitsOk) = true :=
    Bool.and_eq_true_iff.mpr ⟨decide_eq_true hp, decide_eq_true hk⟩
  have hst : r.st = _ := ecmulBody_st s.ecModulus s.curveA (s.point rs1) s m
  rw [exec, execEcmul, if_pos hcheck]
  change State.finish (r.st.setPoint rd r.acc) (noinvCode r.noinv) = _
  rw [hst]
  rfl

/-- What R268 leaves in `r` over all the digits of a recoding, with the dummy point `d` before it: the first digit sets
the accumulator to the base, and with no digits it stays (0, 0). -/
def LeavesOverDigits (p a : Int) (base : Affine) (d : Point) (r : MulLoop) : List Int → Prop
  | [] => r.acc.x = 0 ∧ r.acc.y = 0 ∧ r.st.dummy = d ∧ r.noinv = false
  | _ :: rest => DigitLoop p a base.x base.y rest base.x base.y d r.acc.x r.acc.y r.st.dummy r.noinv

/-- The body of ECMUL over the digits of its recoding. -/
theorem ecmulBody_digits {s : State} {m : Coding} {rs1 : Fin 4} {zs : List Int} (hp : 3 ≤ s.ecModulus)
    (hrecode : recode s.secret m = zs.map symbolOf) (hzs : ∀ z ∈ zs, z = -1 ∨ z = 0 ∨ z = 1) :
    let base := s.point rs1
    let r := ecmulBody s.ecModulus s.curveA base (s.loadCursor m)
    r.acc.Reduced s.ecModulus ∧ LeavesOverDigits s.ecModulus s.curveA base s.dummy r zs := by
  intro base r
  have hpos : 0 < s.ecModulus := by omega
  have hseq : (s.loadCursor m).cur.seq = zs.map symbolOf := hrecode
  cases zs with
  | nil =>
    have hr : r = ⟨⟨0, 0⟩, false, s.loadCursor m⟩ := by simp only [r, ecmulBody, hseq, List.map_nil]
    rw [hr]
    exact ⟨reduced_zero hpos, rfl, rfl, rfl, rfl⟩
  | cons z rest =>
    have hr : r = ecmulLoop s.ecModulus s.curveA base (rest.map symbolOf)
        ⟨base, false, (s.loadCursor m).pulled (symbolOf z) (rest.map symbolOf)⟩ := by
      simp only [r, ecmulBody, hseq, List.map_cons]
    obtain ⟨missing, hloop, hmissing⟩ := ecmulLoop_digitLoop (by omega : 2 ≤ s.ecModulus) s.curveA base
      (c := ⟨base, false, (s.loadCursor m).pulled (symbolOf z) (rest.map symbolOf)⟩)
      (List.forall_mem_cons.mp hzs).2
    rw [← hr, Bool.false_or] at hmissing
    rw [← hr, ← hmissing] at hloop
    refine ⟨?_, hloop⟩
    rw [hr]
    exact ecmulLoop_reduced hpos _ _ (reduced_zmod hpos _ _)

/-- Settles O40: the next state by the loop's frame, and the loop as R268's relation over the digits. -/
theorem ecmulWritesOnlyItsResults : Obligations.EcmulWritesOnlyItsResults := by
  intro s rd rs1 m
  refine ⟨encode_ecmul rd rs1 m, fun hp hk => ?_⟩
  have hexec := exec_ecmul_next (rd := rd) (rs1 := rs1) (m := m) hp hk
  intro p a baseX baseY v digits
  have hrecode : recode s.secret m = digits.map symbolOf := by cases m <;> rfl
  have hdigits : ∀ z ∈ digits, z = -1 ∨ z = 0 ∨ z = 1 := by
    cases m with
    | bin => exact fun z hz => bitsFrom_digit hz
    | naf => exact fun z hz => nafDigits_digit hz
  have hlen : (recode s.secret m).length = digits.length := by rw [hrecode, List.length_map]
  rw [hlen] at hexec
  obtain ⟨hreduced, hloop⟩ := ecmulBody_digits (rs1 := rs1) hp hrecode hdigits
  exact ⟨_, _, _, _, hexec, hreduced, hloop⟩

end Sys2Proof.Machine

/-! SUPPORT. What PRIMROOT and ROOTGEN compute: φ and the order against the library's (R162, R163), the least generator
(R168), ROOTGEN's failures (R172), and that neither command reads what the other writes (R169). -/

namespace Sys2Proof.Machine

/-! ### φ (R162) -/

/-- The count is over 1, …, k. -/
theorem countCoprime_eq (m k acc : Nat) :
    countCoprime m k acc = acc + ((Finset.Ico 1 (k + 1)).filter (Nat.Coprime m)).card := by
  induction k generalizing acc with
  | zero => simp [countCoprime]
  | succ k ih =>
    have hnew : k + 1 ∉ (Finset.Ico 1 (k + 1)).filter (Nat.Coprime m) := by simp
    rw [countCoprime, ih, Nat.Ico_succ_right_eq_insert_Ico (by omega : 1 ≤ k + 1), Finset.filter_insert]
    by_cases h : Nat.Coprime m (k + 1)
    · rw [if_pos h.symm, if_pos h, Finset.card_insert_of_notMem hnew]
      omega
    · rw [if_neg fun hg => h (Nat.Coprime.symm hg), if_neg h]

theorem totient_eq (m : Nat) : totient m = Nat.totient m := by
  rw [totient, countCoprime_eq, Nat.add_comm m 1, Nat.filter_coprime_Ico_eq_totient, Nat.zero_add]

/-! ### The order (R163) -/

/-- A power of `g` is 1 mod m exactly at the multiples of the order. -/
theorem pow_mod_eq_one_iff {m : Nat} (hm : 2 ≤ m) (g k : Nat) : g ^ k % m = 1 ↔ orderOf (g : ZMod m) ∣ k := by
  have hcast : g ^ k % m = 1 % m ↔ (g : ZMod m) ^ k = 1 := by
    rw [← ZMod.natCast_eq_natCast_iff', Nat.cast_pow, Nat.cast_one]
  rw [orderOf_dvd_iff_pow_eq_one, ← hcast, Nat.mod_eq_of_lt (by omega : 1 < m)]

/-- The order of a unit is one of 1, …, φ(m). -/
theorem orderOf_bounds {m g : Nat} (hm : 2 ≤ m) (hg : Nat.Coprime g m) :
    1 ≤ orderOf (g : ZMod m) ∧ orderOf (g : ZMod m) ≤ Nat.totient m := by
  have hpos : 0 < Nat.totient m := Nat.totient_pos.mpr (by omega)
  have hone : g ^ Nat.totient m % m = 1 := Nat.mod_eq_of_modEq (Nat.ModEq.pow_totient hg) (by omega)
  have hdvd := (pow_mod_eq_one_iff hm g _).mp hone
  exact ⟨Nat.pos_of_dvd_of_pos hdvd hpos, Nat.le_of_dvd hpos hdvd⟩

/-- Started at a power at or below the order, and with the passes to reach it, the loop finds the order. -/
theorem orderFrom_eq_orderOf {m g : Nat} (hm : 2 ≤ m) (fuel k : Nat) (hk : 1 ≤ k) (hle : k ≤ orderOf (g : ZMod m))
    (hfuel : orderOf (g : ZMod m) < k + fuel) : orderFrom m g fuel (g ^ k % m) k = orderOf (g : ZMod m) := by
  induction fuel generalizing k with
  | zero => omega
  | succ fuel ih =>
    rw [orderFrom]
    by_cases hone : g ^ k % m = 1
    · rw [if_pos hone]
      exact le_antisymm hle (Nat.le_of_dvd hk ((pow_mod_eq_one_iff hm g k).mp hone))
    · have hne : k ≠ orderOf (g : ZMod m) := fun h => hone ((pow_mod_eq_one_iff hm g k).mpr h.symm.dvd)
      rw [if_neg hone, Nat.mod_mul_mod, ← pow_succ]
      exact ih (k + 1) (by omega) (by omega) (by omega)

theorem orderMod_eq_orderOf {m g : Nat} (hm : 2 ≤ m) (hg : Nat.Coprime g m) : orderMod m g = orderOf (g : ZMod m) := by
  obtain ⟨hpos, hle⟩ := orderOf_bounds hm hg
  have hstart := orderFrom_eq_orderOf hm m 1 le_rfl hpos (by have := Nat.totient_le m; omega)
  rwa [pow_one] at hstart

/-! ### The least generator (R168) -/

/-- The loop's condition, for a candidate, is that it generates the units. -/
theorem isGenerator_iff {q g : Nat} (h2 : 2 ≤ g) (hlt : g < q) :
    isGenerator q (totient q) g = true ↔ IsGenerator q g := by
  rw [isGenerator, Bool.and_eq_true, beq_iff_eq, beq_iff_eq, totient_eq]
  constructor
  · rintro ⟨hcop, hord⟩
    exact ⟨h2, hlt, hcop, (orderMod_eq_orderOf (by omega) hcop).symm.trans hord⟩
  · rintro ⟨-, -, hcop, hord⟩
    exact ⟨hcop, (orderMod_eq_orderOf (by omega) hcop).trans hord⟩

theorem generatorSearch_of_least {q g : Nat} (hg : IsGenerator q g) (hleast : ∀ g', g' < g → ¬ IsGenerator q g') :
    generatorSearch q = some g := by
  have ⟨h2, hlt, _, _⟩ := hg
  refine (firstFrom_eq_some_iff _ _ _ _).mpr ⟨h2, by omega, (isGenerator_iff h2 hlt).mpr hg, fun j hj hjg => ?_⟩
  exact Bool.eq_false_iff.mpr fun h => hleast j hjg ((isGenerator_iff hj (by omega)).mp h)

theorem generatorSearch_of_none {q : Nat} (h : ∀ g, ¬ IsGenerator q g) : generatorSearch q = none :=
  (firstFrom_eq_none_iff _ _ _).mpr fun j hj hjq =>
    Bool.eq_false_iff.mpr fun hgen => h j ((isGenerator_iff hj (by omega)).mp hgen)

/-- Settles O14: the model's φ and order are the library's, so its search is for the least generator. -/
theorem primrootFindsTheLeastGenerator : Obligations.PrimrootFindsTheLeastGenerator := by
  refine ⟨by decide, fun s => ⟨fun hcheck => ⟨fun g hg hleast => ?_, fun hnone => ?_⟩, ?_⟩⟩
  · have hsearch : generatorSearch s.modulus = some g := generatorSearch_of_least hg hleast
    rw [exec, execPrimroot, if_pos hcheck, hsearch]
    rfl
  · have hsearch : generatorSearch s.modulus = none := generatorSearch_of_none hnone
    rw [exec, execPrimroot, if_pos hcheck, hsearch]
    rfl
  · exact exec_of_nttCheck_eq_false rfl

/-! ### PRIMROOT and ROOTGEN apart (R169) -/

/-- PRIMROOT writes NTT_GEN alone, whatever its code. -/
theorem exec_primroot_eq (s : State) :
    ∃ g c, exec .primroot s = .next (State.complete { s with nttGen := g } c) := by
  rw [exec, execPrimroot]
  split
  · split
    · exact ⟨_, _, rfl⟩
    · exact ⟨_, _, rfl⟩
  · exact ⟨s.nttGen, .param, rfl⟩

/-- The state with another NTT_GEN (R49). -/
def State.withGen (s : State) (g : Dword) : State := { s with nttGen := g }

/-- Both outcomes go on, to states that differ in NTT_GEN alone. -/
def AgreeButGen (g : Dword) (o o' : Host.Outcome State Fault Refusal) : Prop :=
  ∃ t, o = .next t ∧ o' = .next (t.withGen g)

theorem AgreeButGen.finish (g : Dword) (t : State) (c : ErrCode) :
    AgreeButGen g (t.finish c) ((t.withGen g).finish c) := ⟨t.complete c, rfl, rfl⟩

/-- ROOTGEN with a settled ψ does not read NTT_GEN. -/
theorem rootgenWith_withGen (psi : Int) (s : State) (g : Dword) :
    AgreeButGen g (rootgenWith psi s) (rootgenWith psi (s.withGen g)) := by
  have hmodulus : (s.withGen g).modulus = s.modulus := rfl
  have hlen : (s.withGen g).len = s.len := rfl
  rw [rootgenWith, rootgenWith, hmodulus, hlen]
  split
  case h_1 u v _ _ => exact .finish g (s.rootgenFilled psi u v) .ok
  case h_2 => exact .finish g (s.setPvalid false) .noinv

/-- ROOTGEN does not read NTT_GEN. -/
theorem execRootgen_withGen (s : State) (g : Dword) : AgreeButGen g (execRootgen s) (execRootgen (s.withGen g)) := by
  have hcheck : (s.withGen g).nttCheck .length = s.nttCheck .length := rfl
  have hmodulus : (s.withGen g).modulus = s.modulus := rfl
  have hlen : (s.withGen g).len = s.len := rfl
  have hroot : (s.withGen g).nttRoot = s.nttRoot := rfl
  rw [execRootgen, execRootgen, hcheck, hmodulus, hlen, hroot]
  split
  · split
    · split
      · exact rootgenWith_withGen _ s g
      · exact .finish g (State.setPvalid { s with nttRoot := 0 } false) .noroot
    · exact rootgenWith_withGen _ s g
  · exact .finish g s .param

/-- Settles O15: PRIMROOT writes NTT_GEN alone, which no branch of ROOTGEN reads. -/
theorem primrootAndRootgenAreIndependent : Obligations.PrimrootAndRootgenAreIndependent := by
  refine ⟨fun s t h => ?_, fun s t g h => ?_⟩
  · obtain ⟨g, c, hexec⟩ := exec_primroot_eq s
    rw [hexec] at h
    cases h
    exact ⟨rfl, rfl, fun _ => rfl, rfl, rfl, rfl⟩
  · obtain ⟨t', hexec, hexecGen⟩ := execRootgen_withGen s g
    obtain rfl : t' = t := Host.Outcome.next.inj (hexec.symm.trans h)
    exact hexecGen

/-! ### ROOTGEN's failures (R170, R172) -/

/-- Only a number coprime to the modulus has an inverse (R156). -/
theorem coprime_of_invMod?_eq_some {m v : Nat} (hm : 2 ≤ m) {u : Int} (h : invMod? m (v : Int) = some u) :
    Nat.Coprime v m := by
  by_contra hcop
  have hnone : invMod? m (v : Int) = none := by
    rw [invMod?_eq_none_iff hm, zmod_nat, Int.toNat_natCast, ← Nat.gcd_rec, Nat.gcd_comm]
    exact hcop
  rw [hnone] at h
  cases h

theorem rootSearch_of_none {q n : Nat} (h : ∀ m, 2 ≤ m → m ≤ q - 2 → m ^ n % q ≠ q - 1) : rootSearch q n = none :=
  (firstFrom_eq_none_iff _ _ _).mpr fun m hm hlt => beq_eq_false_iff_ne.mpr (h m hm (by omega))

/-- Settles O17: an empty search, and a chosen root of which `inv_Q` misses an inverse. -/
theorem rootgenFailures : Obligations.RootgenFailures := by
  intro s hcheck
  refine ⟨fun hroot hnone => ?_, fun psi hchosen hcop => ?_⟩
  · rw [exec, execRootgen, if_pos hcheck, if_pos (by rw [hroot]; rfl), rootSearch_of_none hnone]
    rfl
  · obtain ⟨hq2, -⟩ := State.modulus_bounds (State.modulusOk_of_check hcheck)
    rw [exec, execRootgen_of_rootChosen hcheck hchosen]
    rcases rootgenWith_cases psi s with ⟨u, v, hu, hv, -⟩ | ⟨-, hfail⟩
    · exact absurd ⟨coprime_of_invMod?_eq_some hq2 hu, coprime_of_invMod?_eq_some hq2 hv⟩ hcop
    · rw [hfail]
      rfl

/-! ### NOP (R160) -/

/-- Settles O12: the example is the word of an idle STATUS whose one field that is not 0 is DONE. -/
theorem nopOnlyCompletes : Obligations.NopOnlyCompletes := by
  refine ⟨by decide, fun _ => rfl, fun s hpvalid hovr hbuserr => ?_⟩
  have hstatus : (onlyStatus s .ok).status = ⟨true, false, .ok, false, false⟩ := by
    simp only [onlyStatus, hpvalid, hovr, hbuserr]
  have hidle : (onlyStatus s .ok).busy = false := rfl
  rw [State.statusWord, State.err, hidle, hstatus]
  rfl

end Sys2Proof.Machine

/-! SUPPORT. The checks of the EC and recoder commands (R155), and the acceptance of a command word (R150). -/

namespace Sys2Proof.Machine

/-! ### `ec_check` and the KBITS check (R155) -/

theorem State.ecModulusOk_eq_false_iff (s : State) : s.ecModulusOk = false ↔ s.ecP.toNat < 3 := by
  rw [State.ecModulusOk, decide_eq_false_iff_not, not_le, State.ecModulus]

theorem State.kbitsOk_eq_false_iff (s : State) : s.kbitsOk = false ↔ 576 < s.ecKbits.toNat := by
  rw [State.kbitsOk, decide_eq_false_iff_not, not_le, Config.ecWidth]

/-- Settles O11: each command's check is one or both of the two. -/
theorem ecCheckFailureIsParam : Obligations.EcCheckFailureIsParam := by
  intro s rd rs1 rs2 m
  refine ⟨fun hp => ?_, fun h => ?_, fun hk => ?_⟩
  · have hcheck := s.ecModulusOk_eq_false_iff.mpr hp
    rw [exec, execEcdbl, exec, execEcadd, hcheck]
    exact ⟨rfl, rfl⟩
  · have hcheck : (s.ecModulusOk && s.kbitsOk) = false := by
      rwa [Bool.and_eq_false_iff, State.ecModulusOk_eq_false_iff, State.kbitsOk_eq_false_iff]
    rw [exec, execEcmul, hcheck]
    rfl
  · rw [exec, execRcinit, s.kbitsOk_eq_false_iff.mpr hk]
    rfl

/-! ### Acceptance (R150) -/

/-- Settles O46: the idle block writes CMD's word, the busy block drops it. -/
theorem cmdWriteIsAccepted : Obligations.CmdWriteIsAccepted := by
  intro s v
  have htarget : targetOf 0x010 = .control .cmd := rfl
  refine ⟨fun hidle => hostWrite_control hidle rfl htarget v, fun hbusy => ?_⟩
  exact hostWrite_busy hbusy rfl (by rw [htarget]; exact nofun) v

end Sys2Proof.Machine

/-! SUPPORT. The bank commands cell by cell: each sequence of R193–R207 on the cells of its operands, and what its
command writes to Bank[d] (41_ntt.md, opening). -/

namespace Sys2Proof.Machine

/-! ### The first cells of a bank or table -/

/-- The first `n` values of a family of cells, in order. -/
def firstCells (n : Nat) (f : Nat → Int) : List Int := (List.range n).map f

@[simp] theorem firstCells_length (n : Nat) (f : Nat → Int) : (firstCells n f).length = n := by simp [firstCells]

@[simp] theorem firstCells_getElem (n : Nat) (f : Nat → Int) (i : Nat) (h : i < (firstCells n f).length) :
    (firstCells n f)[i] = f i := by simp [firstCells]

theorem firstCells_getD {n i : Nat} (f : Nat → Int) (h : i < n) : (firstCells n f).getD i 0 = f i := by
  rw [List.getD_eq_getElem _ _ (by simpa using h), firstCells_getElem]

theorem firstCells_congr {n : Nat} {f g : Nat → Int} (h : ∀ i < n, f i = g i) : firstCells n f = firstCells n g :=
  List.map_congr_left fun i hi => h i (List.mem_range.mp hi)

/-- Equal lists have equal cells. -/
theorem firstCells_inj {n : Nat} {f g : Nat → Int} (h : firstCells n f = firstCells n g) {i : Nat} (hi : i < n) :
    f i = g i := by rw [← firstCells_getD f hi, h, firstCells_getD g hi]

theorem firstCells_add (m n : Nat) (f : Nat → Int) :
    firstCells (m + n) f = firstCells m f ++ firstCells n fun i => f (m + i) := by
  rw [firstCells, List.range_add, List.map_append, List.map_map]; rfl

theorem map_firstCells (g : Int → Int) (n : Nat) (f : Nat → Int) :
    (firstCells n f).map g = firstCells n fun i => g (f i) := List.map_map

theorem zipWith_firstCells (g : Int → Int → Int) (n : Nat) (a b : Nat → Int) :
    List.zipWith g (firstCells n a) (firstCells n b) = firstCells n fun i => g (a i) (b i) :=
  List.ext_getElem (by simp) fun i _ _ => by simp

theorem State.coefs_cells (s : State) (b : Fin 4) : s.coefs b = firstCells s.len (s.coef b) := s.coefs_eq b

theorem State.twiddles_cells (s : State) (t : Table) : s.twiddles t = firstCells s.len (s.twiddle t) := s.twiddles_eq t

/-! ### The sequences cell by cell -/

theorem pmulSeq_cells (q n : Nat) (a b : Nat → Int) :
    pmulSeq q (firstCells n a) (firstCells n b) = firstCells n fun i => a i * b i % (q : Int) :=
  zipWith_firstCells _ n a b

theorem bitrevSeq_cells (l : Nat) (a : Nat → Int) :
    bitrevSeq l (firstCells (2 ^ l) a) = firstCells (2 ^ l) fun i => a (revBits l i) :=
  firstCells_congr fun i _ => firstCells_getD a (revBits_lt l i)

theorem scaleSeq_cells (q ninv n : Nat) (a : Nat → Int) :
    scaleSeq q ninv (firstCells n a) = firstCells n fun i => a i * (ninv : Int) % (q : Int) := map_firstCells _ n a

theorem reduceSeq_cells (q n : Nat) (a : Nat → Int) :
    reduceSeq q (firstCells n a) = firstCells n fun i => a i % (q : Int) := map_firstCells _ n a

theorem centerSeq_cells (q n : Nat) (a : Nat → Int) :
    centerSeq q (firstCells n a) = firstCells n fun i => centered q (a i) := map_firstCells _ n a

/-! ### The template, cell by cell -/

/-- A bank command does what its rule says when the cells it writes are those the rule gives. -/
theorem bankCommandMeans_of_cells {i : Instr} {w : Nat} {l : CheckLevel} {d : Fin 4} {c : State → Nat → Int}
    (hword : encode i = BitVec.ofNat 32 w) (hlevel : nttLevel i = some l)
    (hexec : ∀ s, exec i s = bankCommand l d (firstCells s.len (c s)) s) : BankCommandMeans i w l d c := by
  refine ⟨hword, fun s => ⟨fun hcheck => ?_, exec_of_nttCheck_eq_false hlevel⟩⟩
  obtain ⟨hstate, hcells, hframe⟩ := bankResult_writeBank s d (firstCells s.len (c s)) (firstCells_length _ _)
  refine ⟨_, by rw [hexec, bankCommand_ok hcheck], hstate, fun i hi => ?_, hframe⟩
  exact (hcells i hi).trans (congrArg sext64 (firstCells_getD _ hi))

/-! ### The products, the permutation and the reductions (R193–R197, R203–R207) -/

/-- Settles O18: the product of two lists of cells, cell by cell. -/
theorem pmulMultipliesPointwise : Obligations.PmulMultipliesPointwise := by
  intro rd rs1 rs2
  refine bankCommandMeans_of_cells (by revert rd rs1 rs2; decide) rfl fun s => ?_
  rw [exec, execPmul, State.coefs_cells, State.coefs_cells, pmulSeq_cells]
  rfl

/-- Settles O19: as O18, with the cells of the table. -/
theorem twmulMultipliesByTheTable : Obligations.TwmulMultipliesByTheTable := by
  intro rd rs1 t
  refine bankCommandMeans_of_cells (by revert rd rs1; cases t <;> decide) rfl fun s => ?_
  rw [exec, execTwmul, State.coefs_cells, State.twiddles_cells, pmulSeq_cells]
  rfl

/-- Settles O20: a reversed index stays below n, so each cell is one of the source's. -/
theorem bitrevPermutesTheCoefficients : Obligations.BitrevPermutesTheCoefficients := by
  intro rd rs1
  refine bankCommandMeans_of_cells (by revert rd rs1; decide) rfl fun s => ?_
  rw [exec, execBitrev, State.coefs_cells, State.len, bitrevSeq_cells]
  rfl

/-- Settles O21: every cell times the one constant. -/
theorem scaleMultipliesByNinv : Obligations.ScaleMultipliesByNinv := by
  intro rd rs1
  refine bankCommandMeans_of_cells (by revert rd rs1; decide) rfl fun s => ?_
  rw [exec, execScale, State.coefs_cells, scaleSeq_cells]
  rfl

/-- Settles O22: every cell reduced. -/
theorem reduceWritesResidues : Obligations.ReduceWritesResidues := by
  intro rd rs1
  refine bankCommandMeans_of_cells (by revert rd rs1; decide) rfl fun s => ?_
  rw [exec, execReduce, State.coefs_cells, reduceSeq_cells]
  rfl

/-- The centred residue lies in R207's range. -/
theorem centered_bounds {q : Nat} (hq : 0 < q) (x : Int) :
    (q : Int) / 2 - q + 1 ≤ centered q x ∧ centered q x ≤ (q : Int) / 2 := by
  have h0 := zmod_nonneg hq x
  have hlt := zmod_lt hq x
  rw [centered]
  split <;> omega

/-- A number in R207's range is its own centred residue. -/
theorem centered_of_mem_range {q : Nat} {x : Int} (hlo : (q : Int) / 2 - q + 1 ≤ x) (hhi : x ≤ (q : Int) / 2) :
    centered q x = x := by
  rw [centered, zmod]
  rcases Int.lt_or_le x 0 with hx | hx
  · have hmod : x % (q : Int) = x + q := by
      rw [← Int.add_emod_right]; exact Int.emod_eq_of_lt (by omega) (by omega)
    rw [hmod]
    split <;> omega
  · rw [Int.emod_eq_of_lt hx (by omega), if_neg (by omega)]

/-- Every centred residue fits a coefficient (R8). -/
theorem centered_fits {s : State} (hm : s.modulusOk = true) (x : Int) :
    -2 ^ (s.width - 1) ≤ centered s.modulus x ∧ centered s.modulus x < 2 ^ (s.width - 1) := by
  obtain ⟨-, -, h2, hlt⟩ := (State.modulusOk_iff s).mp hm
  have hbounds := centered_bounds (q := s.modulus) (by omega) x
  have hwidth : (s.modulus : Int) < 2 ^ (s.width - 1) := by exact_mod_cast hlt
  omega

theorem centered_allFit {s : State} (hm : s.modulusOk = true) (n : Nat) (a : Nat → Int) :
    AllFit s.width (firstCells n fun i => centered s.modulus (a i)) := by
  intro x hx
  obtain ⟨i, -, rfl⟩ := List.mem_map.mp hx
  exact centered_fits hm (a i)

/-- The cells a bank command wrote read back, when they fit the width. -/
theorem State.coef_bankDone {s : State} (hm : s.modulusOk = true) (d : Fin 4) {cs : List Int} {c : Nat → Int}
    (hcs : cs = firstCells s.len c) (hfit : AllFit s.width cs) {i : Nat} (hi : i < s.len) :
    (s.bankDone d cs).coef d i = c i := by
  have hread := State.coefs_bankDone hm d (by rw [hcs, firstCells_length]) hfit
  rw [State.coefs_cells, hcs] at hread
  exact hcs ▸ firstCells_inj hread hi

theorem exec_center (rd rs1 : Fin 4) (s : State) :
    exec (.center rd rs1) s
      = bankCommand .length rd (firstCells s.len fun i => centered s.modulus (s.coef rs1 i)) s := by
  rw [exec, execCenter, State.coefs_cells, centerSeq_cells]

/-- Settles O23: every cell centred; a centred residue fits a cell, so the results have the range of the
residues. -/
theorem centerWritesCentredResidues : Obligations.CenterWritesCentredResidues := by
  refine ⟨fun rd rs1 => ?_, fun rd rs1 s t i hcheck hexec hi => ?_⟩
  · exact bankCommandMeans_of_cells (by revert rd rs1; decide) rfl (exec_center rd rs1)
  · have hm := State.modulusOk_of_check hcheck
    obtain ⟨h2, -⟩ := State.modulus_bounds hm
    rw [exec_center, bankCommand_ok hcheck] at hexec
    cases hexec
    have hread := State.coef_bankDone hm rd rfl (centered_allFit hm s.len (s.coef rs1)) hi
    exact hread ▸ centered_bounds (Nat.zero_lt_two.trans_le h2) _

/-! ### MULN (R191) -/

/-- Settles O13: the operands are the low W bits, taken as signed, with W by TIER. -/
theorem mulnWritesTheResidueOfTheProduct : Obligations.MulnWritesTheResidueOfTheProduct := by
  refine ⟨by decide, fun s => ⟨fun hcheck => ?_, exec_of_nttCheck_eq_false rfl⟩⟩
  obtain ⟨-, htier, -, -⟩ := (State.modulusOk_iff s).mp hcheck
  rw [exec, execMuln, if_pos hcheck, sint_eq_extractLsb', sint_eq_extractLsb', State.width_of_tier htier]
  rfl

end Sys2Proof.Machine

/-! SUPPORT. The transform of R199 as its loop, cell by cell, and the composites of R210, R212 and R214 in its terms. -/

namespace Sys2Proof.Machine

/-! ### One pass of the loop (R199) -/

/-- The lower cell of a pair, in block `b` of the pass. -/
theorem loopStage_lower (q step : Nat) (tab v : Nat → Int) (b : Nat) {half r : Nat} (hr : r < half) :
    loopStage q half step tab v (2 * half * b + r)
      = (v (2 * half * b + r) + tab (2 * r * step) % (q : Int) * v (2 * half * b + half + r) % (q : Int))
        % (q : Int) := by
  have hj : (2 * half * b + r) % half = r := by
    rw [Nat.mul_comm 2, Nat.mul_assoc, Nat.mul_add_mod, Nat.mod_eq_of_lt hr]
  have hblock : (2 * half * b + r) % (2 * half) = r := by rw [Nat.mul_add_mod, Nat.mod_eq_of_lt (by omega)]
  have hpartner : 2 * half * b + r + half = 2 * half * b + half + r := by omega
  simp only [loopStage, hj, hblock, if_pos hr, hpartner]

/-- The upper cell of a pair, in block `b` of the pass. -/
theorem loopStage_upper (q step : Nat) (tab v : Nat → Int) (b : Nat) {half r : Nat} (hr : r < half) :
    loopStage q half step tab v (2 * half * b + half + r)
      = (v (2 * half * b + r) - tab (2 * r * step) % (q : Int) * v (2 * half * b + half + r) % (q : Int))
        % (q : Int) := by
  have hj : (2 * half * b + half + r) % half = r := by
    rw [Nat.mul_comm 2, Nat.mul_assoc, Nat.add_assoc, Nat.mul_add_mod, Nat.add_mod_left, Nat.mod_eq_of_lt hr]
  have hblock : (2 * half * b + half + r) % (2 * half) = half + r := by
    rw [Nat.add_assoc, Nat.mul_add_mod, Nat.mod_eq_of_lt (by omega)]
  have hpartner : 2 * half * b + half + r - half = 2 * half * b + r := by omega
  simp only [loopStage, hj, hblock, if_neg (by omega : ¬ half + r < half), hpartner]

/-- A pass works block by block: the blocks after the first are a pass over the cells after the first block. -/
theorem loopStage_shift (q half step : Nat) (tab v : Nat → Int) (i : Nat) :
    loopStage q half step tab v (2 * half + i) = loopStage q half step tab (fun j => v (2 * half + j)) i := by
  have hj : (2 * half + i) % half = i % half := Nat.mul_add_mod' _ _ _
  rw [loopStage, loopStage, hj, Nat.add_mod_left]
  split
  · rw [Nat.add_assoc]
  case isFalse h =>
    have hle : half ≤ i := (not_lt.mp h).trans (Nat.mod_le _ _)
    rw [Nat.add_sub_assoc hle]

/-! ### The model's passes, cell by cell -/

/-- The butterfly of a block is a pass over its cells. -/
theorem butterfly_cells (q half step : Nat) (tab v : Nat → Int) :
    butterfly q (firstCells half fun j => tab (2 * j * step) % (q : Int)) (firstCells half v)
        (firstCells half fun j => v (half + j))
      = firstCells (2 * half) (loopStage q half step tab v) := by
  rw [butterfly, pmulSeq_cells, zipWith_firstCells, zipWith_firstCells, two_mul, firstCells_add]
  refine congrArg₂ _ (firstCells_congr fun i hi => ?_) (firstCells_congr fun i hi => ?_)
  · simpa [zmod] using (loopStage_lower q step tab v 0 hi).symm
  · simpa [zmod] using (loopStage_upper q step tab v 0 hi).symm

/-- The butterflies of all blocks are one pass over all cells. -/
theorem blocks_cells (q half step : Nat) (tab : Nat → Int) (k : Nat) (v : Nat → Int) :
    blocks q half (firstCells half fun j => tab (2 * j * step) % (q : Int)) k (firstCells (2 * half * k) v)
      = firstCells (2 * half * k) (loopStage q half step tab v) := by
  induction k generalizing v with
  | zero => rfl
  | succ k ih =>
    have hsplit : firstCells (2 * half * (k + 1)) v = firstCells half v
        ++ ((firstCells half fun j => v (half + j)) ++ firstCells (2 * half * k) fun j => v (2 * half + j)) := by
      rw [Nat.mul_succ, Nat.add_comm, firstCells_add, two_mul, firstCells_add, List.append_assoc]
    rw [blocks, hsplit, List.take_left' (by simp), List.drop_left' (by simp), List.take_left' (by simp),
      ← List.append_assoc, List.drop_left' (by simp; omega), butterfly_cells, ih, Nat.mul_succ, Nat.add_comm,
      firstCells_add]
    simp only [loopStage_shift]

/-- The twiddles of a pass are cells of the table, all with an index below n. -/
theorem stageTwiddles_cells (q half : Nat) {step : Nat} (hstep : 0 < step) (tab : Nat → Int) :
    stageTwiddles q half step (firstCells (2 * half * step) tab)
      = firstCells half fun j => tab (2 * j * step) % (q : Int) := by
  refine firstCells_congr fun j hj => ?_
  have hlt : 2 * j * step < 2 * half * step := Nat.mul_lt_mul_of_pos_right (by omega) hstep
  rw [firstCells_getD tab hlt, zmod]

/-- The model's passes are those of R199's loop. -/
theorem stages_cells (q l : Nat) (tab a : Nat → Int) {k : Nat} (hk : k ≤ l) :
    stages q l (firstCells (2 ^ l) tab) k (reduceSeq q (firstCells (2 ^ l) a))
      = firstCells (2 ^ l) (loopAfter q (2 ^ l) tab a k) := by
  induction k with
  | zero => exact reduceSeq_cells q _ a
  | succ k ih =>
    have hcells : 2 * 2 ^ k * 2 ^ (l - 1 - k) = 2 ^ l := by
      rw [← pow_succ', ← pow_add]; congr 1; omega
    have hstep : 2 ^ l / 2 ^ (k + 1) = 2 ^ (l - 1 - k) := by
      rw [Nat.pow_div hk (by decide)]; congr 1; omega
    rw [stages, ih (by omega), loopAfter, hstep, ← hcells, stageTwiddles_cells _ _ (by positivity), blocks_cells]

theorem xformSeq_cells (q l : Nat) (tab a : Nat → Int) :
    xformSeq q l (firstCells (2 ^ l) tab) (firstCells (2 ^ l) a) = firstCells (2 ^ l) (xformValue q l tab a) :=
  stages_cells q l tab a le_rfl

/-! ### The composites, cell by cell (R210, R212, R214) -/

theorem nttfSeq_cells (q l : Nat) (fwd a : Nat → Int) :
    nttfSeq q l (firstCells (2 ^ l) fwd) (firstCells (2 ^ l) a) = firstCells (2 ^ l) (nttfValue q l fwd a) := by
  rw [nttfSeq, pmulSeq_cells, bitrevSeq_cells, xformSeq_cells]
  rfl

theorem nttiSeq_cells (q l ninv : Nat) (inv a : Nat → Int) :
    nttiSeq q l ninv (firstCells (2 ^ l) inv) (firstCells (2 ^ l) a)
      = firstCells (2 ^ l) (nttiValue q l ninv inv a) := by
  rw [nttiSeq, bitrevSeq_cells, xformSeq_cells, pmulSeq_cells, scaleSeq_cells]
  rfl

theorem polymulSeq_cells (q l ninv : Nat) (fwd inv a b : Nat → Int) :
    polymulSeq q l ninv (firstCells (2 ^ l) fwd) (firstCells (2 ^ l) inv) (firstCells (2 ^ l) a) (firstCells (2 ^ l) b)
      = firstCells (2 ^ l) (polymulValue q l ninv fwd inv a b) := by
  rw [polymulSeq, nttfSeq_cells, nttfSeq_cells, pmulSeq_cells, nttiSeq_cells]
  rfl

/-- The cells POLYMUL writes, in a state. -/
theorem State.polymulSeq_cells (s : State) (rs1 rs2 : Fin 4) :
    polymulSeq s.modulus s.logn s.nttNinv.toNat (s.twiddles .fwd) (s.twiddles .inv) (s.coefs rs1) (s.coefs rs2)
      = firstCells s.len (polymulValue s.modulus s.logn s.nttNinv.toNat (s.twiddle .fwd) (s.twiddle .inv) (s.coef rs1)
          (s.coef rs2)) := by
  rw [State.coefs_cells, State.coefs_cells, State.twiddles_cells, State.twiddles_cells, State.len,
    Machine.polymulSeq_cells]

/-- Settles O24: the model's passes are those of R199's loop, and its composites go cell by cell. -/
theorem transformCommandsWriteTheirSequences : Obligations.TransformCommandsWriteTheirSequences := by
  intro rd rs1 rs2 t
  refine ⟨bankCommandMeans_of_cells (by revert rd rs1; cases t <;> decide) rfl fun s => ?_,
    bankCommandMeans_of_cells (by revert rd rs1; decide) rfl fun s => ?_,
    bankCommandMeans_of_cells (by revert rd rs1; decide) rfl fun s => ?_,
    bankCommandMeans_of_cells (by revert rd rs1 rs2; decide) rfl fun s => ?_⟩
  · rw [exec, execXform, State.coefs_cells, State.twiddles_cells, State.len, xformSeq_cells]
  · rw [exec, execNttf, State.coefs_cells, State.twiddles_cells, State.len, nttfSeq_cells]
  · rw [exec, execNtti, State.coefs_cells, State.twiddles_cells, State.len, nttiSeq_cells]
  · rw [exec, execPolymul, State.polymulSeq_cells]

end Sys2Proof.Machine

/-! SUPPORT. The mathematics behind R201, R216 and R218, over any commutative ring: a polynomial at a point, split by
even and odd coefficients; the sum of the powers of a root of −1; the product in R[x]/(x^n + 1). -/

namespace Sys2Proof.Machine

section RootOfMinusOne

open Finset

variable {R : Type*} [CommRing R]

/-! ### A polynomial at a point -/

/-- The polynomial with the `n` coefficients `c` at `x`. -/
def polyAt (n : Nat) (c : Nat → R) (x : R) : R := ∑ j ∈ range n, c j * x ^ j

theorem polyAt_congr {n : Nat} {c d : Nat → R} (h : ∀ j < n, c j = d j) (x : R) : polyAt n c x = polyAt n d x :=
  sum_congr rfl fun j hj => by rw [h j (mem_range.mp hj)]

/-- The even coefficients and the odd ones, at x² (R199's butterfly). -/
theorem polyAt_two_mul (n : Nat) (c : Nat → R) (x : R) :
    polyAt (2 * n) c x = polyAt n (fun j => c (2 * j)) (x ^ 2) + x * polyAt n (fun j => c (2 * j + 1)) (x ^ 2) := by
  induction n with
  | zero => simp [polyAt]
  | succ n ih =>
    simp only [polyAt] at ih ⊢
    rw [Nat.mul_succ, sum_range_succ, sum_range_succ, ih, sum_range_succ, sum_range_succ]
    ring

/-! ### Powers of a root of −1 -/

/-- A geometric sum of 2^l powers of `x` vanishes when a power x^(2^t) with t < l is −1. -/
theorem sum_pow_eq_zero {l t : Nat} {x : R} (ht : t < l) (hx : x ^ 2 ^ t = -1) : ∑ k ∈ range (2 ^ l), x ^ k = 0 := by
  induction l with
  | zero => omega
  | succ l ih =>
    have hsplit : ∑ k ∈ range (2 ^ (l + 1)), x ^ k = (1 + x ^ 2 ^ l) * ∑ k ∈ range (2 ^ l), x ^ k := by
      rw [pow_succ, mul_two, sum_range_add, add_mul, one_mul, mul_sum]
      simp only [pow_add]
    rcases Nat.lt_succ_iff_lt_or_eq.mp ht with hlt | rfl
    · rw [hsplit, ih hlt, mul_zero]
    · rw [hsplit, hx, add_neg_cancel, zero_mul]

/-- `Σ_{k<n} ω^{dk} = 0` for 0 < d < n and ω = χ² with χ^n = −1 (R216): with the odd part of d, some power of ω^d whose
exponent is a power of two below n is −1. -/
theorem sum_root_pow_eq_zero {l d : Nat} {χ : R} (hχ : χ ^ 2 ^ l = -1) (hd : 0 < d) (hdn : d < 2 ^ l) :
    ∑ k ∈ range (2 ^ l), ((χ ^ 2) ^ d) ^ k = 0 := by
  obtain ⟨e, m, hm, rfl⟩ := Nat.exists_eq_two_pow_mul_odd hd.ne'
  have he : e < l := (Nat.pow_lt_pow_iff_right (by decide)).mp
    ((Nat.le_mul_of_pos_right _ hm.pos).trans_lt hdn)
  refine sum_pow_eq_zero (t := l - 1 - e) (by omega) ?_
  have hexp : 2 * (2 ^ e * m * 2 ^ (l - 1 - e)) = 2 ^ l * m := by
    have hpow : 2 ^ l = 2 * 2 ^ e * 2 ^ (l - 1 - e) := by
      rw [← pow_succ', ← pow_add]; congr 1; omega
    rw [hpow]; ring
  rw [← pow_mul, ← pow_mul, hexp, pow_mul, hχ, hm.neg_one_pow]

/-- The inverse of a root of −1 is a root of −1. -/
theorem inverse_pow_eq_neg_one {n : Nat} {ψ φ : R} (hψφ : ψ * φ = 1) (hψ : ψ ^ n = -1) : φ ^ n = -1 := by
  have h : ψ ^ n * φ ^ n = 1 := by rw [← mul_pow, hψφ, one_pow]
  rw [hψ, neg_one_mul] at h
  exact neg_eq_iff_eq_neg.mp h

/-! ### The negacyclic transform and its inverse (R210, R212, R216) -/

/-- The points of the negacyclic transform, ψ·ω^k with ω = ψ², are roots of −1. -/
theorem point_pow_eq_neg_one {n : Nat} {ψ : R} (hψ : ψ ^ n = -1) (k : Nat) : (ψ * (ψ ^ 2) ^ k) ^ n = -1 := by
  have hodd : ψ * (ψ ^ 2) ^ k = ψ ^ (2 * k + 1) := by rw [← pow_mul, ← pow_succ']
  rw [hodd, ← pow_mul, Nat.mul_comm, pow_mul, hψ, (odd_two_mul_add_one k).neg_one_pow]

/-- One term of the double sum of the inverse transform: n for i = j and 0 for the other indices below n. -/
theorem sum_points_mul {l i j : Nat} {ψ φ : R} (hψφ : ψ * φ = 1) (hψ : ψ ^ 2 ^ l = -1) (hi : i < 2 ^ l)
    (hj : j < 2 ^ l) :
    ∑ k ∈ range (2 ^ l), (ψ * (ψ ^ 2) ^ k) ^ j * ((φ ^ 2) ^ i) ^ k
      = if i = j then ψ ^ i * (2 ^ l : Nat) else 0 := by
  have hterm (k : Nat) : (ψ * (ψ ^ 2) ^ k) ^ j * ((φ ^ 2) ^ i) ^ k = ψ ^ j * ((ψ ^ 2) ^ j * (φ ^ 2) ^ i) ^ k := by
    ring
  have hone (d : Nat) : (ψ ^ 2) ^ d * (φ ^ 2) ^ d = 1 := by rw [← mul_pow, ← mul_pow, hψφ, one_pow, one_pow]
  simp only [hterm, ← mul_sum]
  rcases lt_trichotomy i j with h | rfl | h
  · have hsplit : (ψ ^ 2) ^ j * (φ ^ 2) ^ i = (ψ ^ 2) ^ (j - i) := by
      rw [← Nat.sub_add_cancel h.le, pow_add, mul_assoc, hone, mul_one, Nat.add_sub_cancel]
    rw [hsplit, sum_root_pow_eq_zero hψ (by omega) (by omega), mul_zero, if_neg h.ne]
  · simp [hone]
  · have hsplit : (ψ ^ 2) ^ j * (φ ^ 2) ^ i = (φ ^ 2) ^ (i - j) := by
      rw [← Nat.sub_add_cancel h.le, pow_add, mul_left_comm, hone, mul_one, Nat.add_sub_cancel]
    rw [hsplit, sum_root_pow_eq_zero (inverse_pow_eq_neg_one hψφ hψ) (by omega) (by omega), mul_zero, if_neg h.ne']

/-- The inverse transform gives the coefficients back, where n and ψ have inverses and ψ^n = −1. -/
theorem inverse_transform {l i : Nat} {ψ φ ninv : R} (hψφ : ψ * φ = 1) (hψ : ψ ^ 2 ^ l = -1)
    (hninv : (2 ^ l : Nat) * ninv = 1) (c : Nat → R) (hi : i < 2 ^ l) :
    polyAt (2 ^ l) (fun k => polyAt (2 ^ l) c (ψ * (ψ ^ 2) ^ k)) ((φ ^ 2) ^ i) * φ ^ i * ninv = c i := by
  have hsum : polyAt (2 ^ l) (fun k => polyAt (2 ^ l) c (ψ * (ψ ^ 2) ^ k)) ((φ ^ 2) ^ i)
      = c i * (ψ ^ i * (2 ^ l : Nat)) :=
    calc polyAt (2 ^ l) (fun k => polyAt (2 ^ l) c (ψ * (ψ ^ 2) ^ k)) ((φ ^ 2) ^ i)
        = ∑ j ∈ range (2 ^ l), c j * ∑ k ∈ range (2 ^ l), (ψ * (ψ ^ 2) ^ k) ^ j * ((φ ^ 2) ^ i) ^ k := by
          simp only [polyAt, sum_mul, mul_sum]
          rw [sum_comm]
          simp only [mul_assoc]
      _ = ∑ j ∈ range (2 ^ l), c j * if i = j then ψ ^ i * (2 ^ l : Nat) else 0 :=
          sum_congr rfl fun j hj => by rw [sum_points_mul hψφ hψ hi (mem_range.mp hj)]
      _ = c i * (ψ ^ i * (2 ^ l : Nat)) := by simp [hi]
  calc _ = c i * (ψ * φ) ^ i * ((2 ^ l : Nat) * ninv) := by rw [hsum, mul_pow]; ring
    _ = c i := by rw [hψφ, hninv, one_pow, mul_one, mul_one]

/-! ### The product in R[x]/(x^n + 1) (R218) -/

/-- The coefficients of the negacyclic product: those of the product at k, less those at k + n. -/
def negacyclic (n : Nat) (a b : Nat → R) (k : Nat) : R :=
  (∑ i ∈ range n, ∑ j ∈ range n, if i + j = k then a i * b j else 0)
    - ∑ i ∈ range n, ∑ j ∈ range n, if i + j = k + n then a i * b j else 0

/-- A term a_i·b_j goes to x^(i+j), and −x^(i+j−n) is the same power of a root of −1. -/
theorem sum_negacyclic_term {n i j : Nat} {x : R} (hx : x ^ n = -1) (hi : i < n) (hj : j < n) (y : R) :
    ∑ k ∈ range n, ((if i + j = k then y else 0) - if i + j = k + n then y else 0) * x ^ k = y * x ^ (i + j) := by
  simp only [sub_mul, sum_sub_distrib, ite_mul, zero_mul, sum_ite_eq, mem_range]
  rcases Nat.lt_or_ge (i + j) n with h | h
  · have hnone : ∑ k ∈ range n, (if i + j = k + n then y * x ^ k else 0) = 0 :=
      sum_eq_zero fun k _ => if_neg (by omega)
    rw [if_pos h, hnone, sub_zero]
  · have hwrap : ∑ k ∈ range n, (if i + j = k + n then y * x ^ k else 0) = y * x ^ (i + j - n) := by
      rw [sum_eq_single_of_mem (i + j - n) (mem_range.mpr (by omega)) fun k _ hk => if_neg (by omega),
        if_pos (by omega)]
    have hpow : x ^ (i + j) = -x ^ (i + j - n) := by
      rw [← Nat.sub_add_cancel h, pow_add, hx, Nat.add_sub_cancel, mul_neg_one]
    rw [if_neg (by omega), hwrap, hpow, zero_sub, mul_neg]

/-- At a root of −1 the negacyclic product is the product. -/
theorem polyAt_negacyclic {n : Nat} {x : R} (hx : x ^ n = -1) (a b : Nat → R) :
    polyAt n (negacyclic n a b) x = polyAt n a x * polyAt n b x :=
  calc polyAt n (negacyclic n a b) x
      = ∑ i ∈ range n, ∑ j ∈ range n, ∑ k ∈ range n,
          ((if i + j = k then a i * b j else 0) - if i + j = k + n then a i * b j else 0) * x ^ k := by
        simp only [polyAt, negacyclic, ← sum_sub_distrib, sum_mul]
        rw [sum_comm]
        exact sum_congr rfl fun i _ => sum_comm
    _ = ∑ i ∈ range n, ∑ j ∈ range n, a i * b j * x ^ (i + j) :=
        sum_congr rfl fun i hi => sum_congr rfl fun j hj =>
          sum_negacyclic_term hx (mem_range.mp hi) (mem_range.mp hj) _
    _ = polyAt n a x * polyAt n b x := by
        simp only [polyAt, sum_mul_sum]
        exact sum_congr rfl fun i _ => sum_congr rfl fun j _ => by ring

end RootOfMinusOne

end Sys2Proof.Machine

/-! SUPPORT. The transforms of R201, R210 and R212 in ℤ/Q, with the tables of a ψ whose n-th power is −1: what the cells
of the loop and of its composites are there. -/

namespace Sys2Proof.Machine

/-! ### Residues and their classes -/

/-- A residue is the residue of every number of its class. -/
theorem eq_emod_of_cast_eq {q : Nat} {x z : Int} (hx : x % (q : Int) = x) (h : (x : ZMod q) = (z : ZMod q)) :
    x = z % (q : Int) := hx.symm.trans ((zmod_eq_iff x z).mpr h)

theorem xformValue_emod (q l : Nat) (tab a : Nat → Int) (i : Nat) :
    xformValue q l tab a i % (q : Int) = xformValue q l tab a i := by
  cases l with
  | zero => exact zmod_zmod q _
  | succ l =>
    rw [xformValue, loopAfter]
    simp only [loopStage]
    split
    · exact zmod_zmod q _
    · exact zmod_zmod q _

theorem nttiValue_emod (q l ninv : Nat) (inv a : Nat → Int) (i : Nat) :
    nttiValue q l ninv inv a i % (q : Int) = nttiValue q l ninv inv a i := zmod_zmod q _

/-! ### The loop (R199, R201) -/

theorem revBits_even (L b : Nat) : revBits (L + 1) (2 * b) = revBits L b := by simp [revBits]

theorem revBits_odd (L b : Nat) : revBits (L + 1) (2 * b + 1) = 2 ^ L + revBits L b := by
  have hdiv : (2 * b + 1) / 2 = b := by omega
  simp [revBits, hdiv]

section Transform

variable {q l : Nat} {tab : Nat → Int} {ψ : ZMod q}

/-- The polynomial of block `b` after pass k, with L passes to come: its coefficients are every 2^L-th one of `a` from
`rev_L(b)` on. -/
def blockPoly (q : Nat) (a : Nat → Int) (k L b : Nat) (x : ZMod q) : ZMod q :=
  polyAt (2 ^ k) (fun j => (a (2 ^ L * j + revBits L b) : ZMod q)) x

/-- The even coefficients of a block are those of the first of its halves, the odd ones those of the second. -/
theorem blockPoly_succ (q : Nat) (a : Nat → Int) (k L b : Nat) (x : ZMod q) :
    blockPoly q a (k + 1) L b x
      = blockPoly q a k (L + 1) (2 * b) (x ^ 2) + x * blockPoly q a k (L + 1) (2 * b + 1) (x ^ 2) := by
  have heven (j : Nat) : 2 ^ L * (2 * j) + revBits L b = 2 ^ (L + 1) * j + revBits L b := by ring
  have hodd (j : Nat) : 2 ^ L * (2 * j + 1) + revBits L b = 2 ^ (L + 1) * j + (2 ^ L + revBits L b) := by ring
  simp only [blockPoly, pow_succ' 2 k, polyAt_two_mul, revBits_even, revBits_odd, heven, hodd]

/-- After pass k, block b holds the values of its polynomial at the points ω^(2^L·r) for ω = ψ²: the Cooley–Tukey
argument. The point of an upper cell is the negative of the point of the lower cell, since ω^(n/2) = −1. -/
theorem loopAfter_cast (htab : ∀ i < 2 ^ l, (tab i : ZMod q) = ψ ^ i) (hψ : ψ ^ 2 ^ l = -1) (a : Nat → Int)
    {k L : Nat} (hl : k + L = l) (b : Nat) {r : Nat} (hr : r < 2 ^ k) :
    (loopAfter q (2 ^ l) tab (fun i => a (revBits l i)) k (2 ^ k * b + r) : ZMod q)
      = blockPoly q a k L b ((ψ ^ 2) ^ (2 ^ L * r)) := by
  induction k generalizing L b r with
  | zero =>
    obtain rfl : r = 0 := by omega
    obtain rfl : L = l := by omega
    simp [loopAfter, blockPoly, polyAt]
  | succ k ih =>
    have hstep : 2 ^ l / 2 ^ (k + 1) = 2 ^ L := by rw [← hl, pow_add, Nat.mul_div_cancel_left _ (by positivity)]
    have hn : 2 * 2 ^ k * 2 ^ L = 2 ^ l := by rw [← pow_succ', ← pow_add, hl]
    have hsquare (r : Nat) : (ψ ^ 2) ^ (2 ^ (L + 1) * r) = ((ψ ^ 2) ^ (2 ^ L * r)) ^ 2 := by ring
    have hlower {r : Nat} (hr : r < 2 ^ k) := ih (L := L + 1) (by omega) (2 * b) hr
    have hupper {r : Nat} (hr : r < 2 ^ k) := ih (L := L + 1) (by omega) (2 * b + 1) hr
    have htwiddle {r : Nat} (hr : r < 2 ^ k) : (tab (2 * r * 2 ^ L) : ZMod q) = (ψ ^ 2) ^ (2 ^ L * r) := by
      rw [htab _ (hn ▸ Nat.mul_lt_mul_of_pos_right (by omega) (by positivity))]
      ring
    have hblock : 2 ^ k * (2 * b) = 2 * 2 ^ k * b := by ring
    have hhalf : 2 ^ k * (2 * b + 1) = 2 * 2 ^ k * b + 2 ^ k := by ring
    simp only [hblock, hhalf, hsquare] at hlower hupper
    rw [loopAfter, hstep, pow_succ' 2 k, blockPoly_succ]
    rcases Nat.lt_or_ge r (2 ^ k) with hlt | hge
    · rw [loopStage_lower q _ _ _ b hlt]
      simp only [ZMod.intCast_mod, Int.cast_add, Int.cast_mul, hlower hlt, hupper hlt, htwiddle hlt]
    · obtain ⟨r, rfl⟩ := Nat.exists_eq_add_of_le hge
      have hlt : r < 2 ^ k := by omega
      have hneg : (ψ ^ 2) ^ (2 ^ L * (2 ^ k + r)) = -(ψ ^ 2) ^ (2 ^ L * r) := by
        rw [Nat.mul_add, pow_add, ← pow_mul, ← Nat.mul_assoc, Nat.mul_right_comm, hn, hψ, neg_one_mul]
      rw [← Nat.add_assoc, loopStage_upper q _ _ _ b hlt, hneg]
      simp only [ZMod.intCast_mod, Int.cast_sub, Int.cast_mul, hlower hlt, hupper hlt, htwiddle hlt, neg_sq]
      ring

/-- Bit-reversed input gives the values at the powers of ω = ψ², in order (R201). -/
theorem xformValue_cast (htab : ∀ i < 2 ^ l, (tab i : ZMod q) = ψ ^ i) (hψ : ψ ^ 2 ^ l = -1) (a : Nat → Int)
    {k : Nat} (hk : k < 2 ^ l) :
    (xformValue q l tab (fun i => a (revBits l i)) k : ZMod q)
      = polyAt (2 ^ l) (fun j => (a j : ZMod q)) ((ψ ^ 2) ^ k) := by
  have h := loopAfter_cast htab hψ a (L := 0) rfl 0 hk
  simpa [xformValue, blockPoly, revBits] using h

/-- NTTF gives the values at the points ψ·ω^k (R210). -/
theorem nttfValue_cast (htab : ∀ i < 2 ^ l, (tab i : ZMod q) = ψ ^ i) (hψ : ψ ^ 2 ^ l = -1) (a : Nat → Int)
    {k : Nat} (hk : k < 2 ^ l) :
    (nttfValue q l tab a k : ZMod q) = polyAt (2 ^ l) (fun j => (a j : ZMod q)) (ψ * (ψ ^ 2) ^ k) := by
  rw [nttfValue, xformValue_cast htab hψ (fun j => a j * tab j % (q : Int)) hk]
  refine Finset.sum_congr rfl fun j hj => ?_
  dsimp only
  rw [ZMod.intCast_mod, Int.cast_mul, htab j (Finset.mem_range.mp hj), mul_pow, mul_assoc]

/-- NTTI is the scaled and weighted transform by the table of ψ (R212). -/
theorem nttiValue_cast (htab : ∀ i < 2 ^ l, (tab i : ZMod q) = ψ ^ i) (hψ : ψ ^ 2 ^ l = -1) (ninv : Nat)
    (a : Nat → Int) {i : Nat} (hi : i < 2 ^ l) :
    (nttiValue q l ninv tab a i : ZMod q)
      = polyAt (2 ^ l) (fun j => (a j : ZMod q)) ((ψ ^ 2) ^ i) * ψ ^ i * (ninv : ZMod q) := by
  rw [nttiValue, ZMod.intCast_mod, Int.cast_mul, ZMod.intCast_mod, Int.cast_mul, xformValue_cast htab hψ a hi,
    htab i hi, Int.cast_natCast]

end Transform

/-! ### The tables of a root of −1 (R59, R201) -/

/-- Tables and constants as R172 leaves them, in ℤ/Q and for n = 2^l: the powers of ψ and of its inverse φ, the inverse
of n, and ψ^n = −1. -/
structure RootTables (q l : Nat) (fwd inv : Nat → Int) (ninv : Nat) (ψ φ : ZMod q) : Prop where
  fwd_cast : ∀ i < 2 ^ l, (fwd i : ZMod q) = ψ ^ i
  inv_cast : ∀ i < 2 ^ l, (inv i : ZMod q) = φ ^ i
  root_mul_inv : ψ * φ = 1
  root_pow : ψ ^ 2 ^ l = -1
  len_mul_ninv : ((2 ^ l : Nat) : ZMod q) * (ninv : ZMod q) = 1

section RootTables

variable {q l ninv : Nat} {fwd inv : Nat → Int} {ψ φ : ZMod q}

theorem RootTables.inv_pow (h : RootTables q l fwd inv ninv ψ φ) : φ ^ 2 ^ l = -1 :=
  inverse_pow_eq_neg_one h.root_mul_inv h.root_pow

/-- NTTI finds the coefficients whose values at the points ψ·ω^k it is given. -/
theorem RootTables.nttiValue_of_values (h : RootTables q l fwd inv ninv ψ φ) {values c : Nat → Int}
    (hvalues : ∀ k < 2 ^ l, (values k : ZMod q) = polyAt (2 ^ l) (fun j => (c j : ZMod q)) (ψ * (ψ ^ 2) ^ k)) {i : Nat}
    (hi : i < 2 ^ l) : nttiValue q l ninv inv values i = c i % (q : Int) := by
  refine eq_emod_of_cast_eq (nttiValue_emod _ _ _ _ _ _) ?_
  rw [nttiValue_cast h.inv_cast h.inv_pow ninv values hi, polyAt_congr hvalues]
  exact inverse_transform h.root_mul_inv h.root_pow h.len_mul_ninv (fun j => (c j : ZMod q)) hi

/-- NTTI after NTTF gives the residues back (R216). -/
theorem RootTables.nttiValue_nttfValue (h : RootTables q l fwd inv ninv ψ φ) (a : Nat → Int) {i : Nat}
    (hi : i < 2 ^ l) : nttiValue q l ninv inv (nttfValue q l fwd a) i = a i % (q : Int) :=
  h.nttiValue_of_values (fun _ hk => nttfValue_cast h.fwd_cast h.root_pow a hk) hi

theorem negacyclic_cast (q n : Nat) (a b : Nat → Int) (k : Nat) :
    ((negacyclic n a b k : Int) : ZMod q) = negacyclic n (fun i => (a i : ZMod q)) (fun i => (b i : ZMod q)) k := by
  simp [negacyclic]

/-- POLYMUL is the negacyclic product: the values of the product are the products of the values (R218). -/
theorem RootTables.polymulValue_eq (h : RootTables q l fwd inv ninv ψ φ) (a b : Nat → Int) {k : Nat}
    (hk : k < 2 ^ l) : polymulValue q l ninv fwd inv a b k = negacyclic (2 ^ l) a b k % (q : Int) := by
  refine h.nttiValue_of_values (fun k hk => ?_) hk
  simp only [negacyclic_cast]
  rw [polyAt_negacyclic (point_pow_eq_neg_one h.root_pow k), ZMod.intCast_mod, Int.cast_mul,
    nttfValue_cast h.fwd_cast h.root_pow a hk, nttfValue_cast h.fwd_cast h.root_pow b hk]

end RootTables

/-- A residue in a table cell reads as itself (R58). -/
theorem sint_residue {s : State} (hm : s.modulusOk = true) (v : Nat) :
    sint s.width (BitVec.ofNat 64 (v % s.modulus)) = (v % s.modulus : Nat) := by
  obtain ⟨hpos, hle⟩ := State.width_pos hm
  have hfits := zmod_fits hm (v : Int)
  rw [zmod_nat] at hfits
  rw [← BitVec.ofInt_natCast]
  exact sint_sext64 hpos hle hfits.1 hfits.2

theorem cast_eq_one_of_mod {q x : Nat} (h : x % q = 1) : (x : ZMod q) = 1 := by
  rw [← ZMod.natCast_mod, h, Nat.cast_one]

/-- The tables of the premise of R201. -/
theorem NegacyclicTables.rootTables {s : State} (hm : s.modulusOk = true) (h : NegacyclicTables s) :
    RootTables s.modulus s.logn (s.twiddle .fwd) (s.twiddle .inv) s.nttNinv.toNat (s.nttRoot.toNat : ZMod s.modulus)
      (s.nttRootinv.toNat : ZMod s.modulus) := by
  obtain ⟨⟨-, hq, -, -, -, -, -, -, hinverse, hninv, hcells⟩, hpow⟩ := h
  refine ⟨fun i hi => ?_, fun i hi => ?_, ?_, ?_, ?_⟩
  · rw [State.twiddle, (hcells i hi).1, sint_residue hm, Int.cast_natCast, ZMod.natCast_mod, Nat.cast_pow]
  · rw [State.twiddle, (hcells i hi).2, sint_residue hm, Int.cast_natCast, ZMod.natCast_mod, Nat.cast_pow]
  · exact_mod_cast cast_eq_one_of_mod hinverse
  · have hcast : ((s.nttRoot.toNat ^ s.len : Nat) : ZMod s.modulus) = -1 := by
      rw [← ZMod.natCast_mod, hpow, Nat.cast_sub (by omega), ZMod.natCast_self, Nat.cast_one, zero_sub]
    exact_mod_cast hcast
  · exact_mod_cast cast_eq_one_of_mod hninv

end Sys2Proof.Machine

/-! SUPPORT. The laws of 41_ntt.md over commands in sequence: the DFT law (R201), the round trip (R216) and the
negacyclic product (R214, R218). -/

namespace Sys2Proof.Machine

/-! ### What a finished bank command leaves for the next -/

@[simp] theorem State.bankDone_len (s : State) (d : Fin 4) (c : List Int) : (s.bankDone d c).len = s.len := rfl
@[simp] theorem State.bankDone_nttCheck (s : State) (d : Fin 4) (c : List Int) (l : CheckLevel) :
    (s.bankDone d c).nttCheck l = s.nttCheck l := by
  rw [State.bankDone, State.complete_nttCheck, State.writeBank_nttCheck]

/-- A bank command leaves the coefficients of the other banks. -/
theorem State.coefs_bankDone_of_ne {s : State} (hl : s.lengthOk = true) {d b : Fin 4} (hne : d ≠ b) {c : List Int}
    (hlen : c.length = s.len) : (s.bankDone d c).coefs b = s.coefs b := by
  have hn := State.len_le hl
  have hcell {i : Nat} (hi : i < s.len) : (s.bankDone d c).cellAt (bankBase b) i = s.cellAt (bankBase b) i := by
    refine State.cellAt_congr fun k _ => State.byteAt_writeBank_outside s d c _ ?_
    have hval : (d : Nat) ≠ b := fun h => hne (Fin.ext h)
    simp only [bankBase]
    omega
  rw [State.coefs_cells, State.coefs_cells]
  exact firstCells_congr fun i hi => congrArg (sint s.width) (hcell hi)

theorem scaleSeq_residues (q ninv : Nat) (a : List Int) : AllResidues q (scaleSeq q ninv a) := by
  intro x hx
  obtain ⟨z, -, rfl⟩ := List.mem_map.mp hx
  exact ⟨_, rfl⟩

/-! ### The DFT law (R201) -/

/-- BITREV, then XFORM in place: the loop on the reordered coefficients. -/
theorem exec_bitrev_xform {s : State} (h : s.nttCheck .tables = true) (rd rs1 : Fin 4) (T : Table) :
    ∃ t u, exec (.bitrev rd rs1) s = .next t ∧ exec (.xform rd rd T) t = .next u ∧ ∀ k < s.len,
      u.coef rd k = xformValue s.modulus s.logn (s.twiddle T) (fun i => s.coef rs1 (revBits s.logn i)) k := by
  have hlevel1 := State.nttCheck_length_of_tables h
  have hm := State.modulusOk_of_check h
  have hl := State.lengthOk_of_check hlevel1
  let c₁ := bitrevSeq s.logn (s.coefs rs1)
  let c₂ := xformSeq s.modulus s.logn (s.twiddles T) c₁
  have hlen₁ : c₁.length = s.len := bitrevSeq_length _ _
  have hlen₂ : c₂.length = s.len := xformSeq_length _ _ _ _ hlen₁
  have hcells : c₂ = firstCells s.len
      (xformValue s.modulus s.logn (s.twiddle T) fun i => s.coef rs1 (revBits s.logn i)) := by
    simp only [c₂, c₁, State.coefs_cells, State.twiddles_cells, State.len, bitrevSeq_cells, xformSeq_cells]
  refine ⟨s.bankDone rd c₁, s.bankDone rd c₂, bankCommand_ok hlevel1 _ _, ?_, fun k hk => ?_⟩
  · rw [exec, execXform, State.coefs_bankDone hm rd hlen₁ ((State.coefs_allFit s rs1).bitrevSeq _),
      State.twiddles_bankDone hl rd hlen₁]
    exact bankCommand_bankDone h rd (hlen₁.trans hlen₂.symm)
  · exact State.coef_bankDone hm rd hcells ((xformSeq_residues _ _ _ _).allFit hm) hk

/-- The loop on bit-reversed input, with the table of a root r of −1, is the transform at the powers of r². -/
theorem xformValue_eq_dft {q l r : Nat} {tab : Nat → Int} (htab : ∀ i < 2 ^ l, (tab i : ZMod q) = (r : ZMod q) ^ i)
    (hr : (r : ZMod q) ^ 2 ^ l = -1) (a : Nat → Int) {k : Nat} (hk : k < 2 ^ l) :
    xformValue q l tab (fun i => a (revBits l i)) k
      = (∑ j ∈ Finset.range (2 ^ l), a j * ((r : Int) ^ 2) ^ (j * k)) % (q : Int) := by
  refine eq_emod_of_cast_eq (xformValue_emod _ _ _ _ _) ?_
  have hpow (j : Nat) : (((r : ZMod q) ^ 2) ^ k) ^ j = ((r : ZMod q) ^ 2) ^ (j * k) := by rw [← pow_mul, Nat.mul_comm]
  rw [xformValue_cast htab hr a hk]
  simp [polyAt, hpow]

/-- Settles O29: the Cooley–Tukey argument (`loopAfter_cast`) over either table. -/
theorem xformComputesTheDft : Obligations.XformComputesTheDft := by
  intro s rd rs1 h htables
  have hroot := htables.rootTables (State.modulusOk_of_check h)
  obtain ⟨t, u, hbitrev, hxform, hu⟩ := exec_bitrev_xform h rd rs1 .fwd
  obtain ⟨t', u', hbitrev', hxform', hu'⟩ := exec_bitrev_xform h rd rs1 .inv
  exact ⟨⟨t, u, hbitrev, hxform, fun k hk =>
      (hu k hk).trans (xformValue_eq_dft hroot.fwd_cast hroot.root_pow (s.coef rs1) hk)⟩,
    t', u', hbitrev', hxform', fun k hk =>
      (hu' k hk).trans (xformValue_eq_dft hroot.inv_cast hroot.inv_pow (s.coef rs1) hk)⟩

/-! ### The round trip (R216) -/

/-- NTTF, then NTTI and CENTER in place: the composites of the cells. -/
theorem exec_nttf_ntti_center {s : State} (h : s.nttCheck .tables = true) (rd rs1 : Fin 4) :
    ∃ t u v, exec (.nttf rd rs1) s = .next t ∧ exec (.ntti rd rd) t = .next u ∧ exec (.center rd rd) u = .next v ∧
      ∀ i < s.len, u.coef rd i = nttiValue s.modulus s.logn s.nttNinv.toNat (s.twiddle .inv)
            (nttfValue s.modulus s.logn (s.twiddle .fwd) (s.coef rs1)) i
          ∧ v.coef rd i = centered s.modulus (u.coef rd i) := by
  have hlevel1 := State.nttCheck_length_of_tables h
  have hm := State.modulusOk_of_check h
  have hl := State.lengthOk_of_check hlevel1
  let c₁ := nttfSeq s.modulus s.logn (s.twiddles .fwd) (s.coefs rs1)
  let c₂ := nttiSeq s.modulus s.logn s.nttNinv.toNat (s.twiddles .inv) c₁
  let c₃ := firstCells s.len fun i => centered s.modulus ((s.bankDone rd c₂).coef rd i)
  have hlen₁ : c₁.length = s.len := nttfSeq_length _ _ _ _
  have hlen₂ : c₂.length = s.len := nttiSeq_length _ _ _ _ _ (State.twiddles_length s .inv)
  have hcells₂ : c₂ = firstCells s.len (nttiValue s.modulus s.logn s.nttNinv.toNat (s.twiddle .inv)
      (nttfValue s.modulus s.logn (s.twiddle .fwd) (s.coef rs1))) := by
    simp only [c₂, c₁, State.coefs_cells, State.twiddles_cells, State.len, nttfSeq_cells, nttiSeq_cells]
  refine ⟨s.bankDone rd c₁, s.bankDone rd c₂, s.bankDone rd c₃, bankCommand_ok h _ _, ?_, ?_, fun i hi => ⟨?_, ?_⟩⟩
  · rw [exec, execNtti, State.coefs_bankDone hm rd hlen₁ ((xformSeq_residues _ _ _ _).allFit hm),
      State.twiddles_bankDone hl rd hlen₁]
    exact bankCommand_bankDone h rd (hlen₁.trans hlen₂.symm)
  · rw [exec_center]
    exact bankCommand_bankDone hlevel1 rd (hlen₂.trans (firstCells_length _ _).symm)
  · exact State.coef_bankDone hm rd hcells₂ ((scaleSeq_residues _ _ _).allFit hm) hi
  · exact State.coef_bankDone hm rd rfl (centered_allFit hm _ _) hi

/-- CENTER's result depends on the residue alone (R207). -/
theorem centered_emod (q : Nat) (x : Int) : centered q (x % (q : Int)) = centered q x := by
  have hmod : zmod q (x % (q : Int)) = zmod q x := zmod_zmod q x
  rw [centered, centered, hmod]

/-- Settles O30: NTTI finds the coefficients whose values NTTF gives, and CENTER the one of a class in its range. -/
theorem inverseTransformUndoesTheForward : Obligations.InverseTransformUndoesTheForward := by
  intro s rd rs1 h htables
  have hroot := htables.rootTables (State.modulusOk_of_check h)
  obtain ⟨t, u, v, ht, hu, hv, hread⟩ := exec_nttf_ntti_center h rd rs1
  refine ⟨t, u, v, ht, hu, hv, fun i hi => ?_⟩
  obtain ⟨hui, hvi⟩ := hread i hi
  have hresidue := hui.trans (hroot.nttiValue_nttfValue (s.coef rs1) hi)
  refine ⟨hresidue, fun hlo hhi => ?_⟩
  rw [hvi, hresidue, centered_emod]
  exact centered_of_mem_range hlo hhi

/-! ### POLYMUL (R214, R218) -/

theorem exec_polymul {s : State} (h : s.nttCheck .tables = true) (rd rs1 rs2 : Fin 4) :
    ∃ r, exec (.polymul rd rs1 rs2) s = .next r ∧ ∀ i < s.len, r.coef rd i
      = polymulValue s.modulus s.logn s.nttNinv.toNat (s.twiddle .fwd) (s.twiddle .inv) (s.coef rs1)
            (s.coef rs2) i := by
  have hm := State.modulusOk_of_check h
  exact ⟨_, bankCommand_ok h _ _, fun i hi =>
    State.coef_bankDone hm rd (s.polymulSeq_cells rs1 rs2) ((scaleSeq_residues _ _ _).allFit hm) hi⟩

/-- NTTF, NTTF, PMUL, NTTI over the banks x and y: the first transform stands in x while the second goes to y, which is
not the bank x, and reads rs2, which x is not either. -/
theorem exec_polymul_sequence {s : State} (h : s.nttCheck .tables = true) (rs1 : Fin 4) {rs2 x y : Fin 4}
    (hxy : x ≠ y) (hx2 : x ≠ rs2) :
    ∃ t u v w, exec (.nttf x rs1) s = .next t ∧ exec (.nttf y rs2) t = .next u ∧ exec (.pmul x x y) u = .next v
      ∧ exec (.ntti x x) v = .next w ∧ ∀ i < s.len, w.coef x i
        = polymulValue s.modulus s.logn s.nttNinv.toNat (s.twiddle .fwd) (s.twiddle .inv) (s.coef rs1)
            (s.coef rs2) i := by
  have hlevel1 := State.nttCheck_length_of_tables h
  have hm := State.modulusOk_of_check h
  have hl := State.lengthOk_of_check hlevel1
  let a := nttfSeq s.modulus s.logn (s.twiddles .fwd) (s.coefs rs1)
  let b := nttfSeq s.modulus s.logn (s.twiddles .fwd) (s.coefs rs2)
  let c := pmulSeq s.modulus a b
  let p := nttiSeq s.modulus s.logn s.nttNinv.toNat (s.twiddles .inv) c
  let t := s.bankDone x a
  let u := t.bankDone y b
  let v := u.bankDone x c
  have ha : a.length = s.len := nttfSeq_length _ _ _ _
  have hb : b.length = t.len := nttfSeq_length _ _ _ _
  have hc : c.length = u.len := by simp [c, ha, u, hb, t]
  have hfit (tw r : List Int) : AllFit s.width (nttfSeq s.modulus s.logn tw r) := (xformSeq_residues _ _ _ _).allFit hm
  refine ⟨t, u, v, v.bankDone x p, bankCommand_ok h _ _, ?_, ?_, ?_, fun i hi => ?_⟩
  · rw [exec, execNttf, State.coefs_bankDone_of_ne hl hx2 ha, State.twiddles_bankDone hl x ha]
    exact bankCommand_ok (by simpa [t] using h) _ _
  · have hux : u.coefs x = a :=
      (State.coefs_bankDone_of_ne (s := t) hl hxy.symm hb).trans (State.coefs_bankDone hm x ha (hfit _ _))
    have huy : u.coefs y = b := State.coefs_bankDone (s := t) hm y hb (hfit _ _)
    rw [exec, execPmul, hux, huy]
    exact bankCommand_ok (by simpa [u, t] using hlevel1) _ _
  · have hvx : v.coefs x = c := State.coefs_bankDone (s := u) hm x hc ((pmulSeq_residues _ _ _).allFit hm)
    have htw : v.twiddles .inv = s.twiddles .inv :=
      (State.twiddles_bankDone (s := u) hl x hc .inv).trans
        ((State.twiddles_bankDone (s := t) hl y hb .inv).trans (State.twiddles_bankDone hl x ha .inv))
    rw [exec, execNtti, hvx, htw]
    exact bankCommand_ok (by simpa [v, u, t] using h) _ _
  · exact State.coef_bankDone (s := v) hm x (s.polymulSeq_cells rs1 rs2) ((scaleSeq_residues _ _ _).allFit hm) hi

/-- Settles O28: both leave the cells of `polymulValue`. -/
theorem polymulIsItsPrimitiveSequence : Obligations.PolymulIsItsPrimitiveSequence := by
  intro s rd rs1 rs2 x y h hxy hx2
  obtain ⟨r, hr, hvalue⟩ := exec_polymul h rd rs1 rs2
  obtain ⟨t, u, v, w, ht, hu, hv, hw, hvalue'⟩ := exec_polymul_sequence h rs1 hxy hx2
  exact ⟨t, u, v, w, r, ht, hu, hv, hw, hr, fun i hi => (hvalue i hi).trans (hvalue' i hi).symm⟩

/-- Settles O31: the cells of `polymulValue` are the negacyclic product. -/
theorem polymulIsNegacyclicConvolution : Obligations.PolymulIsNegacyclicConvolution := by
  intro s rd rs1 rs2 x y h htables hxy hx2
  have hroot := htables.rootTables (State.modulusOk_of_check h)
  obtain ⟨r, hr, hvalue⟩ := exec_polymul h rd rs1 rs2
  obtain ⟨t, u, v, w, ht, hu, hv, hw, hvalue'⟩ := exec_polymul_sequence h rs1 hxy hx2
  exact ⟨⟨r, hr, fun k hk => (hvalue k hk).trans (hroot.polymulValue_eq _ _ hk)⟩,
    t, u, v, w, ht, hu, hv, hw, fun k hk => (hvalue' k hk).trans (hroot.polymulValue_eq _ _ hk)⟩

end Sys2Proof.Machine

/-! SUPPORT. RMODE is read by the checks alone, which tell 3 from the other modes and no more (R154, R190). -/

namespace Sys2Proof.Machine

/-- Both outcomes go on, to states that are the same when the second takes the reduction mode `r`. -/
def AgreeButRmode (r : BitVec 2) (o o' : Host.Outcome State Fault Refusal) : Prop :=
  ∃ t, o = .next t ∧ o' = .next (t.withRmode r)

theorem AgreeButRmode.finish (r : BitVec 2) (t : State) (c : ErrCode) :
    AgreeButRmode r (t.finish c) ((t.withRmode r).finish c) := ⟨t.complete c, rfl, rfl⟩

/-- What the digit loop carries, with another reduction mode in its state. -/
def MulLoop.withRmode (c : MulLoop) (r : BitVec 2) : MulLoop := { c with st := c.st.withRmode r }

theorem ecmulPass_withRmode (p : Nat) (a : Int) (base : Affine) (y : Symbol) (rest : List Symbol) (c : MulLoop)
    (r : BitVec 2) : ecmulPass p a base y rest (c.withRmode r) = (ecmulPass p a base y rest c).withRmode r := by
  simp only [ecmulPass]
  split
  · rfl
  · rfl

theorem ecmulLoop_withRmode (p : Nat) (a : Int) (base : Affine) (ys : List Symbol) (c : MulLoop) (r : BitVec 2) :
    ecmulLoop p a base ys (c.withRmode r) = (ecmulLoop p a base ys c).withRmode r := by
  induction ys generalizing c with
  | nil => rfl
  | cons y rest ih => rw [ecmulLoop, ecmulLoop, ecmulPass_withRmode, ih]

theorem ecmulBody_withRmode (p : Nat) (a : Int) (base : Affine) (s : State) (r : BitVec 2) :
    ecmulBody p a base (s.withRmode r) = (ecmulBody p a base s).withRmode r := by
  have hcur : (s.withRmode r).cur = s.cur := rfl
  rw [ecmulBody, ecmulBody, hcur]
  split
  · rfl
  case h_2 y rest _ => exact ecmulLoop_withRmode p a base rest ⟨base, false, s.pulled y rest⟩ r

section Modes

variable {s : State} {r : BitVec 2}

/-- Every legal mode passes the same checks. -/
theorem State.withRmode_nttCheck (hs : s.ctrl.rmode ≠ 3) (hr : r ≠ 3) (l : CheckLevel) :
    (s.withRmode r).nttCheck l = s.nttCheck l := by
  have hmodulus : (s.withRmode r).modulusOk = s.modulusOk := by
    rw [Bool.eq_iff_iff, State.modulusOk_iff, State.modulusOk_iff]
    exact and_congr_left' (iff_of_true hr hs)
  cases l with
  | scalar => exact hmodulus
  | length => rw [State.nttCheck_length, State.nttCheck_length, hmodulus]; rfl
  | tables => rw [State.nttCheck_tables, State.nttCheck_tables, hmodulus]; rfl

theorem bankCommand_withRmode (hs : s.ctrl.rmode ≠ 3) (hr : r ≠ 3) (l : CheckLevel) (d : Fin 4) (c : List Int) :
    AgreeButRmode r (bankCommand l d c s) (bankCommand l d c (s.withRmode r)) := by
  rw [bankCommand, bankCommand, State.withRmode_nttCheck hs hr]
  split
  · exact .finish r (s.writeBank d c) .ok
  · exact .finish r s .param

theorem rootgenWith_withRmode (psi : Int) (s : State) (r : BitVec 2) :
    AgreeButRmode r (rootgenWith psi s) (rootgenWith psi (s.withRmode r)) := by
  have hmodulus : (s.withRmode r).modulus = s.modulus := rfl
  have hlen : (s.withRmode r).len = s.len := rfl
  rw [rootgenWith, rootgenWith, hmodulus, hlen]
  split
  case h_1 u v _ _ => exact .finish r (s.rootgenFilled psi u v) .ok
  case h_2 => exact .finish r (s.setPvalid false) .noinv

theorem execRootgen_withRmode (hs : s.ctrl.rmode ≠ 3) (hr : r ≠ 3) :
    AgreeButRmode r (execRootgen s) (execRootgen (s.withRmode r)) := by
  have hmodulus : (s.withRmode r).modulus = s.modulus := rfl
  have hlen : (s.withRmode r).len = s.len := rfl
  have hroot : (s.withRmode r).nttRoot = s.nttRoot := rfl
  rw [execRootgen, execRootgen, State.withRmode_nttCheck hs hr, hmodulus, hlen, hroot]
  split
  · split
    · split
      · exact rootgenWith_withRmode _ s r
      · exact .finish r (State.setPvalid { s with nttRoot := 0 } false) .noroot
    · exact rootgenWith_withRmode _ s r
  · exact .finish r s .param

theorem execEcmul_withRmode (rd rs1 : Fin 4) (m : Coding) :
    AgreeButRmode r (execEcmul rd rs1 m s) (execEcmul rd rs1 m (s.withRmode r)) := by
  have hbody : ecmulBody (s.withRmode r).ecModulus (s.withRmode r).curveA ((s.withRmode r).point rs1)
      ((s.withRmode r).loadCursor m) = _ := ecmulBody_withRmode s.ecModulus s.curveA (s.point rs1) (s.loadCursor m) r
  have hcheck : ((s.withRmode r).ecModulusOk && (s.withRmode r).kbitsOk) = (s.ecModulusOk && s.kbitsOk) := rfl
  rw [execEcmul, execEcmul, hcheck]
  split
  · rw [hbody]
    exact .finish r ((ecmulBody s.ecModulus s.curveA (s.point rs1) (s.loadCursor m)).st.setPoint rd _) _
  · exact .finish r s .param

/-- No command reads RMODE but in its checks. -/
theorem exec_withRmode (hs : s.ctrl.rmode ≠ 3) (hr : r ≠ 3) (i : Instr) :
    AgreeButRmode r (exec i s) (exec i (s.withRmode r)) := by
  cases i with
  | nop => exact .finish r s .ok
  | muln =>
    rw [exec, exec, execMuln, execMuln, State.withRmode_nttCheck hs hr]
    split
    · exact .finish r { s with mulnR := _ } .ok
    · exact .finish r s .param
  | rootgen => exact execRootgen_withRmode hs hr
  | primroot =>
    have hmodulus : (s.withRmode r).modulus = s.modulus := rfl
    rw [exec, exec, execPrimroot, execPrimroot, State.withRmode_nttCheck hs hr, hmodulus]
    split
    · split
      case h_1 g _ => exact .finish r { s with nttGen := BitVec.ofNat 64 g } .ok
      case h_2 => exact .finish r { s with nttGen := 0 } .noroot
    · exact .finish r s .param
  | pmul _ _ _ | twmul _ _ _ | bitrev _ _ | xform _ _ _ | scale _ _ | reduce _ _ | center _ _ | nttf _ _ | ntti _ _
  | polymul _ _ _ => exact bankCommand_withRmode hs hr _ _ _
  | rcinit m =>
    have hcheck : (s.withRmode r).kbitsOk = s.kbitsOk := rfl
    rw [exec, exec, execRcinit, execRcinit, hcheck]
    split
    · exact .finish r (s.loadCursor m) .ok
    · exact .finish r s .param
  | rcpull =>
    have hcur : (s.withRmode r).cur = s.cur := rfl
    rw [exec, exec, execRcpull, execRcpull, hcur]
    split
    case h_1 => exact .finish r s .rcempty
    case h_2 y rest _ => exact .finish r (s.pulled y rest) .ok
  | ecdbl rd rs1 =>
    have hcheck : (s.withRmode r).ecModulusOk = s.ecModulusOk := rfl
    rw [exec, exec, execEcdbl, execEcdbl, hcheck]
    split
    · exact .finish r (s.setPoint rd _) _
    · exact .finish r s .param
  | ecadd rd rs1 rs2 =>
    have hcheck : (s.withRmode r).ecModulusOk = s.ecModulusOk := rfl
    rw [exec, exec, execEcadd, execEcadd, hcheck]
    split
    · exact .finish r (s.setPoint rd _) _
    · exact .finish r s .param
  | ecmul rd rs1 m => exact execEcmul_withRmode rd rs1 m

end Modes

/-- Settles O32: every check passes in all the legal modes or in none, and nothing else reads RMODE. -/
theorem reductionModeChangesNothing : Obligations.ReductionModeChangesNothing := by
  intro i s t r hs hr h
  obtain ⟨t', hexec, hexecMode⟩ := exec_withRmode hs hr i
  obtain rfl : t' = t := Host.Outcome.next.inj (hexec.symm.trans h)
  exact hexecMode

end Sys2Proof.Machine

/-! SUPPORT. The recoder (42_recoder.md): what R245 says of the two recodings, RCINIT and RCPULL one after another
(R240, R242), and ECMUL over a recoding of at most two symbols (R243, R268, R270). -/

namespace Sys2Proof.Machine

/-! ### Binary digits (R241, R245) -/

/-- The bits of a number between two neighbouring powers of two (R241). -/
theorem bitLen_eq {v l : Nat} (hlo : 2 ^ l ≤ v) (hhi : v < 2 ^ (l + 1)) : bitLen v = l + 1 := by
  have hv : v ≠ 0 := ((Nat.two_pow_pos l).trans_le hlo).ne'
  rw [bitLen, if_neg hv, (Nat.log2_eq_iff hv).mpr ⟨hlo, hhi⟩]

theorem bitsFrom_bit {v l : Nat} {z : Int} (h : z ∈ bitsFrom v l) : z = 0 ∨ z = 1 := by
  induction l with
  | zero => cases h
  | succ l ih =>
    rcases List.mem_cons.mp h with rfl | h
    · split
      · exact .inr rfl
      · exact .inl rfl
    · exact ih h

/-! ### The value of a digit sequence (R245 item 1) -/

/-- Doubling and adding makes the statement's value of the digits, after the shifted start. -/
theorem hornerValue_eq (k : Int) (zs : List Int) : hornerValue k zs = k * 2 ^ zs.length + digitsValue zs := by
  induction zs generalizing k with
  | nil => simp [hornerValue, digitsValue]
  | cons z zs ih =>
    rw [hornerValue, List.foldl_cons, ← hornerValue, ih, digitsValue, List.length_cons]
    ring

theorem digitsValue_one_cons (zs : List Int) : digitsValue (1 :: zs) = hornerValue 1 zs := (hornerValue_eq 1 zs).symm

/-! ### The length of the NAF (R245) -/

/-- When a pass leaves a number of which three times are strictly between 2^n and 2^(n+1), the number it had is so for
n + 1. -/
theorem nafDigit_next_bounds {v n : Nat} (hlo : 2 ^ n < 3 * (((v : Int) - nafDigit v).toNat / 2))
    (hhi : 3 * (((v : Int) - nafDigit v).toNat / 2) < 2 ^ (n + 1)) : 2 ^ (n + 1) < 3 * v ∧ 3 * v < 2 ^ (n + 2) := by
  rw [nafDigit] at hlo hhi
  match n with
  | 0 | 1 => omega
  | k + 2 =>
    simp only [pow_succ] at *
    omega

/-- The number of digits n of `naf_digits`: three times the number is strictly between 2^n and 2^(n+1). -/
theorem nafLoop_length_bounds (fuel v : Nat) (hv : 0 < v) (hf : v ≤ fuel) :
    2 ^ (nafLoop fuel v).length < 3 * v ∧ 3 * v < 2 ^ ((nafLoop fuel v).length + 1) := by
  induction fuel generalizing v with
  | zero => omega
  | succ fuel ih =>
    obtain ⟨-, hvalue, hlt, hlast⟩ := nafDigit_spec hv
    rw [nafLoop, if_neg hv.ne', List.length_cons]
    rcases Nat.eq_zero_or_pos (((v : Int) - nafDigit v).toNat / 2) with hzero | hpos
    · have hone : v = 1 := by
        rw [hzero, hlast hzero] at hvalue
        omega
      have hnil : nafLoop fuel 0 = [] := by cases fuel <;> rfl
      rw [hzero, hnil, hone]
      decide
    · obtain ⟨hlo, hhi⟩ := ih _ hpos (by omega)
      exact nafDigit_next_bounds hlo hhi

theorem nafDigits_length_bounds {v : Nat} (hv : 0 < v) :
    2 ^ (nafDigits v).length < 3 * v ∧ 3 * v < 2 ^ ((nafDigits v).length + 1) := by
  rw [nafDigits, List.length_reverse]
  exact nafLoop_length_bounds v v hv le_rfl

/-- The NAF has as many digits as the number has bits, or one more. -/
theorem nafDigits_length {v l : Nat} (hlo : 2 ^ l ≤ v) (hhi : v < 2 ^ (l + 1)) :
    (nafDigits v).length = l + 1 ∨ (nafDigits v).length = l + 2 := by
  obtain ⟨hlow, hhigh⟩ := nafDigits_length_bounds ((Nat.two_pow_pos l).trans_le hlo)
  have hge : l + 1 < (nafDigits v).length + 1 :=
    (Nat.pow_lt_pow_iff_right (by norm_num : 1 < 2)).mp (by rw [pow_succ] at hhi ⊢; omega)
  have hle : (nafDigits v).length < l + 3 :=
    (Nat.pow_lt_pow_iff_right (by norm_num : 1 < 2)).mp (by rw [pow_succ] at hhi; rw [pow_add]; omega)
  omega

/-- The NAF of 2^k − 1 = 2^k + (−1) is one digit longer than its k bits. -/
theorem nafDigits_length_two_pow_sub_one {k : Nat} (hk : 2 ≤ k) : (nafDigits (2 ^ k - 1)).length = k + 1 := by
  obtain ⟨l, rfl⟩ := Nat.exists_eq_add_of_le' hk
  have hpow : 2 ^ (l + 2) = 4 * 2 ^ l := by rw [pow_add, mul_comm]; rfl
  have hpos := Nat.two_pow_pos l
  rcases nafDigits_length (v := 2 ^ (l + 2) - 1) (l := l + 1) (by rw [hpow, pow_succ]; omega) (by omega) with h | h
  · obtain ⟨-, hhigh⟩ := nafDigits_length_bounds (v := 2 ^ (l + 2) - 1) (by omega)
    rw [h, pow_succ 2 (l + 2)] at hhigh
    omega
  · exact h

/-! ### Non-adjacency (R245) -/

/-- A pass with a nonzero digit leaves an even number, whose digit is 0. -/
theorem nafDigit_eq_zero_or_next (v : Nat) :
    nafDigit v = 0 ∨ nafDigit (((v : Int) - nafDigit v).toNat / 2) = 0 := by
  by_cases hodd : v % 2 = 1
  · have heven : (((v : Int) - nafDigit v).toNat / 2) % 2 ≠ 1 := by
      rw [nafDigit, if_pos hodd]
      omega
    exact .inr (if_neg heven)
  · exact .inl (if_neg hodd)

theorem nafLoop_nonadjacent (fuel v : Nat) : (nafLoop fuel v).IsChain fun y z => y = 0 ∨ z = 0 := by
  induction fuel generalizing v with
  | zero => exact .nil
  | succ fuel ih =>
    rw [nafLoop]
    split
    · exact .nil
    · refine List.isChain_cons.mpr ⟨fun z hz => ?_, ih _⟩
      have hnext : z = nafDigit (((v : Int) - nafDigit v).toNat / 2) := by
        cases fuel with
        | zero => cases hz
        | succ fuel =>
          rw [nafLoop] at hz
          split at hz
          · cases hz
          · exact (Option.some_inj.mp hz).symm
      rw [hnext]
      exact nafDigit_eq_zero_or_next v

/-- No two neighbours among the digits of the NAF are both nonzero. -/
theorem nafDigits_nonadjacent (v i : Nat) : (nafDigits v).getD i 0 = 0 ∨ (nafDigits v).getD (i + 1) 0 = 0 := by
  have hchain : (nafDigits v).IsChain fun y z => y = 0 ∨ z = 0 := by
    rw [nafDigits, List.isChain_reverse]
    exact (nafLoop_nonadjacent v v).imp fun _ _ => Or.symm
  rcases Nat.lt_or_ge (i + 1) (nafDigits v).length with hlt | hge
  · rw [List.getD_eq_getElem _ _ (Nat.lt_of_succ_lt hlt), List.getD_eq_getElem _ _ hlt]
    exact List.isChain_iff_getElem.mp hchain i hlt
  · exact .inr (List.getD_eq_default _ _ hge)

/-! ### Symbols (R241, R244, R53) -/

theorem symbolOf_eq (z : Int) : symbolOf z = if z = 0 then .low else if z = 1 then .high else .minusOne := by
  rw [symbolOf]
  split
  · next h => subst h; rfl
  · rfl

/-- RC_SYM reads the code of its symbol (R53). -/
theorem hostRead_rcSym {s : State} (hb : s.busy = false) :
    (s.hostRead 0x080 4).rdata = (Symbol.code s.rcSym).setWidth 32 := by
  rw [hostRead_control hb (r := .rcSym) rfl rfl]
  rfl

/-- What R245 says of both recodings of a number of l + 1 bits. -/
theorem recodings_of_bits {v l : Nat} (hlo : 2 ^ l ≤ v) (hhi : v < 2 ^ (l + 1)) :
    digitsValue (binDigits v) = v ∧ digitsValue (nafDigits v) = v
    ∧ (∀ d ∈ binDigits v, d = 0 ∨ d = 1) ∧ (∀ d ∈ nafDigits v, d = -1 ∨ d = 0 ∨ d = 1)
    ∧ (∀ i, (nafDigits v).getD i 0 = 0 ∨ (nafDigits v).getD (i + 1) 0 = 0)
    ∧ (binDigits v).length = l + 1 ∧ ((nafDigits v).length = l + 1 ∨ (nafDigits v).length = l + 2)
    ∧ (binDigits v).head? = some 1 ∧ (nafDigits v).head? = some 1
    ∧ ∀ m, (recode v m).head? = some .high := by
  have hv : 0 < v := (Nat.two_pow_pos l).trans_le hlo
  obtain ⟨bs, hbin, hbinValue, -⟩ := binDigits_of_pos hv
  obtain ⟨zs, hnaf, hnafValue, -⟩ := nafDigits_of_pos hv
  refine ⟨?_, ?_, fun _ hd => bitsFrom_bit hd, fun _ hd => nafDigits_digit hd, nafDigits_nonadjacent v, ?_,
    nafDigits_length hlo hhi, ?_, ?_, fun m => ?_⟩
  · rw [hbin, digitsValue_one_cons, hbinValue]
  · rw [hnaf, digitsValue_one_cons, hnafValue]
  · rw [binDigits, bitsFrom_length, bitLen_eq hlo hhi]
  · rw [hbin, List.head?_cons]
  · rw [hnaf, List.head?_cons]
  · obtain ⟨ys, hys, -⟩ := recode_of_pos hv m
    rw [hys, List.head?_cons]

/-- Settles O34: the length and the non-adjacency by the passes of `naf_digits`, the value by double and add. -/
theorem recodingsAreSound : Obligations.RecodingsAreSound := by
  refine ⟨⟨rfl, rfl⟩, fun _ _ => recodings_of_bits, fun _ m hv => recode_length_le hv m, ?_, fun v m => ?_,
    fun s hb => ?_⟩
  · rw [recode, List.length_map, nafDigits_length_two_pow_sub_one (by norm_num)]
  · cases m <;> exact List.map_congr_left fun z _ => symbolOf_eq z
  · rw [hostRead_rcSym hb]
    cases s.rcSym <;> rfl

/-! ### RCINIT and RCPULL (R240, R242) -/

/-- RCINIT whose check passes loads the cursor. -/
theorem exec_rcinit_of_kbits {s : State} (hk : s.ecKbits.toNat ≤ 576) (m : Coding) :
    exec (.rcinit m) s = .next ((s.loadCursor m).complete .ok) := by
  have hcheck : s.kbitsOk = true := decide_eq_true hk
  rw [exec, execRcinit, if_pos hcheck, State.finish]

theorem exec_rcpull_cons {s : State} {y : Symbol} {rest : List Symbol} (h : s.cur.seq = y :: rest) :
    exec .rcpull s = .next ((s.pulled y rest).complete .ok) := by
  rw [exec, execRcpull, h]
  rfl

theorem exec_rcpull_nil {s : State} (h : s.cur.seq = []) : exec .rcpull s = .next (s.complete .rcempty) := by
  rw [exec, execRcpull, h]
  rfl

/-- Settles O33: the loaded cursor, or PARAM (O11). -/
theorem rcinitLoadsTheCursor : Obligations.RcinitLoadsTheCursor := by
  refine ⟨by decide, by decide, fun s m => ⟨exec_rcinit_of_kbits (m := m), fun hk => ?_⟩⟩
  obtain ⟨-, -, hrcinit⟩ := ecCheckFailureIsParam s 0 0 0 m
  exact hrcinit hk

/-- Settles O35: the two cursors RCPULL can meet. -/
theorem rcpullPullsTheHead : Obligations.RcpullPullsTheHead :=
  ⟨by decide, fun _ => ⟨fun _ _ => exec_rcpull_cons, exec_rcpull_nil⟩⟩

/-! ### Pulls in a row (R242) -/

theorem pullTimes_cons {s : State} {y : Symbol} {rest : List Symbol} (h : s.cur.seq = y :: rest) (k : Nat) :
    pullTimes (k + 1) s = pullTimes k ((s.pulled y rest).complete .ok) := by
  rw [pullTimes, exec_rcpull_cons h]

/-- The k-th pull takes the k-th symbol of a cursor that RC_REMAIN can count. -/
theorem pullTimes_takes_symbol {ys : List Symbol} (hlen : ys.length ≤ Config.digMax) {s : State}
    (h : s.cur.seq = ys) {k : Nat} (hk : k < ys.length) :
    ∃ u, pullTimes (k + 1) s = .next u ∧ u.status.errcode = .ok ∧ u.rcSym = ys[k]
      ∧ u.rcRemain.toNat = ys.length - (k + 1) := by
  induction ys generalizing s k with
  | nil => cases hk
  | cons y rest ih =>
    have hrest : rest.length ≤ Config.digMax := (Nat.le_succ _).trans hlen
    rw [pullTimes_cons h]
    cases k with
    | zero => exact ⟨_, rfl, rfl, rfl, toNat_ofNat_length hrest⟩
    | succ k =>
      rw [List.getElem_cons_succ, List.length_cons, Nat.add_sub_add_right]
      exact ih hrest rfl (Nat.lt_of_succ_lt_succ hk)

/-- One pull more than the cursor holds reports RCEMPTY. -/
theorem pullTimes_past_the_end {ys : List Symbol} {s : State} (h : s.cur.seq = ys) :
    ∃ u, pullTimes (ys.length + 1) s = .next u ∧ u.status.errcode = .rcempty ∧ u.cur.seq = [] := by
  induction ys generalizing s with
  | nil => exact ⟨s.complete .rcempty, by simp only [List.length_nil, pullTimes, exec_rcpull_nil h], rfl, h⟩
  | cons y rest ih =>
    rw [List.length_cons, pullTimes_cons h]
    exact ih rfl

/-- Settles O36: the pulls from the cursor RCINIT loads, which holds at most DIGMAX symbols. -/
theorem pullsReturnTheRecoding : Obligations.PullsReturnTheRecoding := by
  intro s m hk seq
  have hlen : seq.length ≤ Config.digMax := recode_length_le (State.secret_lt (decide_eq_true hk)) m
  have hseq : ((s.loadCursor m).complete .ok).cur.seq = seq := rfl
  exact ⟨_, exec_rcinit_of_kbits hk m, fun _ h => pullTimes_takes_symbol hlen hseq h, pullTimes_past_the_end hseq⟩

/-! ### The body of ECMUL on a short recoding (R268) -/

theorem ecmulBody_nil (p : Nat) (a : Int) (base : Affine) {s : State} (h : s.cur.seq = []) :
    ecmulBody p a base s = ⟨⟨0, 0⟩, false, s⟩ := by rw [ecmulBody, h]

theorem ecmulBody_singleton (p : Nat) (a : Int) (base : Affine) {s : State} {y : Symbol} (h : s.cur.seq = [y]) :
    ecmulBody p a base s = ⟨base, false, s.pulled y []⟩ := by rw [ecmulBody, h]; rfl

/-- A digit 0 after the first: the double is the result, and the sum with the base, flags included, goes to DUMMY. -/
theorem ecmulBody_low (p : Nat) (a : Int) (base : Affine) {s : State} {y : Symbol} (h : s.cur.seq = [y, .low]) :
    let d := ecDbl p a base
    let q := ecAdd p d.1 base
    ecmulBody p a base s = ⟨d.1, d.2 || q.2, ((s.pulled y [.low]).pulled .low []).setDummy q.1⟩ := by
  rw [ecmulBody, h]; rfl

theorem recode_one (m : Coding) : recode 1 m = [.high] := by cases m <;> rfl

theorem recode_two (m : Coding) : recode 2 m = [.high, .low] := by cases m <;> rfl

/-! ### Doubling and addition in the registers (R260–R265) -/

/-- The state an ECDBL leaves whose check passes. -/
theorem exec_ecdbl_next {s : State} (hp : 3 ≤ s.ecP.toNat) (rd rs1 : Fin 4) :
    let d := ecDbl s.ecModulus s.curveA (s.point rs1)
    exec (.ecdbl rd rs1) s = .next ((s.setPoint rd d.1).complete (noinvCode d.2)) := by
  have hcheck : s.ecModulusOk = true := decide_eq_true hp
  rw [exec, execEcdbl, if_pos hcheck]
  rfl

/-- A residue reads back from a register as wide as one that holds the modulus. -/
theorem toNat_ofInt_of_lt_toNat {w : Nat} (x : BitVec w) {z : Int} (h0 : 0 ≤ z) (hlt : z < x.toNat) :
    (((BitVec.ofInt w z).toNat : Nat) : Int) = z := by
  rw [toNat_ofInt_residue x.isLt.le h0 hlt, Int.toNat_of_nonneg h0]

/-- A reduced abscissa reads back from the point register it was written to. -/
theorem State.setPoint_x_toNat {s : State} {r : Affine} (hr : r.Reduced s.ecModulus) (d : Fin 4) :
    ((((s.setPoint d r).pt[d]).x.toNat : Nat) : Int) = r.x := by
  obtain ⟨h0, hlt, -, -⟩ := hr
  have hread : ((s.setPoint d r).pt[d]).x = BitVec.ofInt 576 r.x := by simp [zextEc]
  rw [hread]
  exact toNat_ofInt_of_lt_toNat s.ecP h0 hlt

/-- The common factors of a difference with P are those of the difference with its first part reduced. -/
theorem gcd_zmod_sub (p : Nat) (x y : Int) : Int.gcd (zmod p x - y) p = Int.gcd (x - y) p := by
  rw [zmod, ← Int.gcd_emod, Int.emod_sub_emod, Int.gcd_emod]

/-- `ec_add` flags NOINV exactly when the difference of the abscissas has a common factor with P (R156, R265). -/
theorem ecAdd_flag_iff {p : Nat} (hp : 2 ≤ p) (a b : Affine) :
    (ecAdd p a b).2 = true ↔ Int.gcd (b.x - a.x) p ≠ 1 := by
  have hflag : (ecAdd p a b).2 = (invMod? p (zmod p (b.x - a.x))).isNone := rfl
  have hgcd : Nat.gcd (zmod p (b.x - a.x)).toNat p = Int.gcd (b.x - a.x) p := by
    rw [← Int.gcd_natCast_natCast, Int.toNat_of_nonneg (zmod_nonneg (by omega) _), zmod, Int.gcd_emod]
  rw [hflag, Option.isNone_iff_eq_none, invMod?_eq_none_iff hp, zmod_zmod, hgcd]

/-- Adding a reduced point as PT[d] holds it to the register PT[j] as it stands before (R260). -/
theorem State.ecAdd_setPoint_flag_iff {s : State} {r : Affine} (hp : 3 ≤ s.ecModulus) (hr : r.Reduced s.ecModulus)
    (d j : Fin 4) : (ecAdd s.ecModulus r (s.point j)).2 = true ↔
      Int.gcd ((s.pt[j]).x.toNat - ((s.setPoint d r).pt[d]).x.toNat) s.ecModulus ≠ 1 := by
  rw [ecAdd_flag_iff (by omega), State.point, gcd_zmod_sub, State.setPoint_x_toNat hr d]

/-- The code of two steps that may each flag NOINV, by the code of the first alone. -/
theorem noinvCode_or (a b : Bool) :
    noinvCode (a || b) = if noinvCode a = .noinv ∨ b = true then .noinv else .ok := by
  cases a <;> cases b <;> rfl

theorem ofInt_zmod_nat (p x : Nat) : BitVec.ofInt 576 (zmod p x) = BitVec.ofNat 576 (x % p) := by
  rw [zmod_nat, BitVec.ofInt_natCast]

/-! ### ECMUL by 0, 1 and 2 (R268) -/

section SmallScalars

variable {s : State} {rd rs1 : Fin 4} {m : Coding} (hp : 3 ≤ s.ecP.toNat) (hk : s.ecKbits.toNat ≤ 576)
include hp hk

theorem exec_ecmul_of_secret_zero (hv : s.secret = 0) :
    exec (.ecmul rd rs1 m) s = .next { onlyStatus s .ok with
      pt := s.pt.set rd ⟨0, 0⟩, cur := { mode := m, seq := [] }, rcCount := 0, rcRemain := 0 } := by
  have hrecode : recode s.secret m = [] := by rw [hv, recode_zero]
  have hzero : BitVec.ofInt 576 0 = 0 := zextEc_zero
  rw [exec_ecmul_next hp hk, ecmulBody_nil _ _ _ (s := s.loadCursor m) hrecode, hrecode, hzero]
  rfl

theorem exec_ecmul_of_secret_one (hv : s.secret = 1) :
    exec (.ecmul rd rs1 m) s = .next { onlyStatus s .ok with
      pt := s.pt.set rd ⟨BitVec.ofNat 576 ((s.pt[rs1]).x.toNat % s.ecP.toNat),
        BitVec.ofNat 576 ((s.pt[rs1]).y.toNat % s.ecP.toNat)⟩
      cur := { mode := m, seq := [] }, rcCount := 1, rcRemain := 0, rcSym := .high } := by
  have hrecode : recode s.secret m = [.high] := by rw [hv, recode_one]
  rw [exec_ecmul_next hp hk, ecmulBody_singleton _ _ _ (s := s.loadCursor m) hrecode, hrecode, State.point,
    ofInt_zmod_nat, ofInt_zmod_nat]
  rfl

/-- By 2: the state of the doubling, but for the code, the recoder's registers and the sum in DUMMY. -/
theorem exec_ecmul_of_secret_two (hv : s.secret = 2) :
    let d := ecDbl s.ecModulus s.curveA (s.point rs1)
    let q := ecAdd s.ecModulus d.1 (s.point rs1)
    exec (.ecmul rd rs1 m) s = .next { (s.setPoint rd d.1).complete (noinvCode (d.2 || q.2)) with
      cur := { mode := m, seq := [] }, rcCount := 2, rcRemain := 0, rcSym := .low
      dummy := ⟨zextEc q.1.x, zextEc q.1.y⟩ } := by
  have hrecode : recode s.secret m = [.high, .low] := by rw [hv, recode_two]
  rw [exec_ecmul_next hp hk, ecmulBody_low _ _ _ (s := s.loadCursor m) hrecode, hrecode]
  rfl

end SmallScalars

/-- Settles O39: the body of ECMUL on the recodings of 0, 1 and 2. -/
theorem ecmulOfSmallScalars : Obligations.EcmulOfSmallScalars := by
  intro s rd rs1 m hp hk v
  refine ⟨exec_ecmul_of_secret_zero hp hk, exec_ecmul_of_secret_one hp hk, fun hv => ?_⟩
  refine ⟨_, _, exec_ecmul_of_secret_two hp hk hv, exec_ecdbl_next hp rd rs1, rfl, ?_⟩
  have hmod : 3 ≤ s.ecModulus := hp
  have hflag := State.ecAdd_setPoint_flag_iff hp (ecDbl_reduced (by omega) s.curveA (s.point rs1)) rd rs1
  exact (noinvCode_or _ _).trans (if_congr (or_congr_right hflag) rfl rfl)

end Sys2Proof.Machine

/-! SUPPORT. The point commands ECDBL and ECADD (43_ec_point.md): the inverse they look for (R156), what `ec_dbl` and
`ec_add` answer with and without it (R263, R265), and the state that each command leaves (R262, R264). -/

namespace Sys2Proof.Machine

/-! ### The inverse of a reduced value (R156) -/

theorem invMod?_zmod_eq_some {p : Nat} (hp : 2 ≤ p) {u v : Int} (h0 : 0 ≤ u) (hu : u < p) (h : u * v % (p : Int) = 1) :
    invMod? p (zmod p v) = some u :=
  invMod?_eq_some hp h0 hu ((zmod_mul_zmod p u v).trans h)

theorem invMod?_zmod_eq_none {p : Nat} (hp : 2 ≤ p) {v : Int} (h : Int.gcd v p ≠ 1) : invMod? p (zmod p v) = none := by
  have hgcd : Nat.gcd (zmod p v).toNat p = Int.gcd v p := by
    rw [← Int.gcd_natCast_natCast, Int.toNat_of_nonneg (zmod_nonneg (by omega) v), zmod, Int.gcd_emod]
  rwa [invMod?_eq_none_iff hp, zmod_zmod, hgcd]

/-! ### Lines (R263, R265) -/

/-- A missing inverse counts as 0, so the slope is 0. -/
theorem ecChord_missing_inverse (p : Nat) (z x y xb : Int) :
    ecChord p (zmod p (z * (none : Option Int).getD 0)) x y xb = ⟨zmod p (-x - xb), zmod p (-y)⟩ := by
  have hslope : zmod p (z * (none : Option Int).getD 0) = 0 := by rw [Option.getD_none, mul_zero, zmod, Int.zero_emod]
  rw [hslope, ecChord]
  simp

/-- The tangent: the chord through a point and its own abscissa. -/
theorem ecChord_tangent (p : Nat) (lam x y : Int) : ecChord p lam x y x =
    ⟨zmod p (lam ^ 2 - 2 * x), zmod p (lam * (x - zmod p (lam ^ 2 - 2 * x)) - y)⟩ := by
  rw [ecChord, sub_sub, ← two_mul]

/-! ### `ec_dbl` (R263) -/

theorem ecDbl_identity (p : Nat) (a : Int) {pt : Affine} (hO : pt.x = 0 ∧ pt.y = 0) :
    ecDbl p a pt = (⟨0, 0⟩, false) := by rw [ecDbl, if_pos hO]

theorem ecDbl_of_inverse {p : Nat} (hp : 2 ≤ p) (a : Int) {pt : Affine} (hO : ¬(pt.x = 0 ∧ pt.y = 0)) {u : Int}
    (h0 : 0 ≤ u) (hu : u < p) (h : u * (2 * pt.y) % (p : Int) = 1) :
    ecDbl p a pt = (ecChord p (zmod p ((3 * pt.x ^ 2 + a) * u)) pt.x pt.y pt.x, false) := by
  rw [ecDbl, if_neg hO, invMod?_zmod_eq_some hp h0 hu h]
  rfl

theorem ecDbl_of_no_inverse {p : Nat} (hp : 2 ≤ p) (a : Int) {pt : Affine} (hO : ¬(pt.x = 0 ∧ pt.y = 0))
    (h : Int.gcd (2 * pt.y) p ≠ 1) : ecDbl p a pt = (⟨zmod p (-(2 * pt.x)), zmod p (-pt.y)⟩, true) := by
  have hx : -(2 * pt.x) = -pt.x - pt.x := by ring
  rw [ecDbl, if_neg hO, invMod?_zmod_eq_none hp h, hx]
  exact congrArg (·, true) (ecChord_missing_inverse ..)

/-! ### `ec_add` (R265) -/

theorem ecAdd_of_inverse {p : Nat} (hp : 2 ≤ p) {a b : Affine} {u : Int} (h0 : 0 ≤ u) (hu : u < p)
    (h : u * (b.x - a.x) % (p : Int) = 1) :
    ecAdd p a b = (ecChord p (zmod p ((b.y - a.y) * u)) a.x a.y b.x, false) := by
  rw [ecAdd, invMod?_zmod_eq_some hp h0 hu h]
  rfl

theorem ecAdd_of_no_inverse {p : Nat} (hp : 2 ≤ p) {a b : Affine} (h : Int.gcd (b.x - a.x) p ≠ 1) :
    ecAdd p a b = (⟨zmod p (-a.x - b.x), zmod p (-a.y)⟩, true) := by
  rw [ecAdd, invMod?_zmod_eq_none hp h]
  exact congrArg (·, true) (ecChord_missing_inverse ..)

/-! ### The commands (R262, R264) -/

theorem encode_ecdbl (rd rs1 : Fin 4) : encode (.ecdbl rd rs1) = BitVec.ofNat 32 (0x30 + 256 * rd + 1024 * rs1) := by
  revert rd rs1
  decide

theorem encode_ecadd (rd rs1 rs2 : Fin 4) :
    encode (.ecadd rd rs1 rs2) = BitVec.ofNat 32 (0x31 + 256 * rd + 1024 * rs1 + 4096 * rs2) := by
  revert rd rs1 rs2
  decide

/-- The state an ECADD leaves whose check passes. -/
theorem exec_ecadd_next {s : State} (hp : 3 ≤ s.ecP.toNat) (rd rs1 rs2 : Fin 4) :
    let r := ecAdd s.ecModulus (s.point rs1) (s.point rs2)
    exec (.ecadd rd rs1 rs2) s = .next ((s.setPoint rd r.1).complete (noinvCode r.2)) := by
  have hcheck : s.ecModulusOk = true := decide_eq_true hp
  rw [exec, execEcadd, if_pos hcheck]
  rfl

/-- Settles O37: the state after `ec_dbl`, by its three cases. -/
theorem ecdblDoublesThePoint : Obligations.EcdblDoublesThePoint := by
  intro s rd rs1
  refine ⟨encode_ecdbl rd rs1, fun hparam => ?_, fun hp => ?_⟩
  · obtain ⟨hcheck, -, -⟩ := ecCheckFailureIsParam s rd rs1 0 .bin
    exact (hcheck hparam).left
  · have hmod : 2 ≤ s.ecModulus := by rw [State.ecModulus]; omega
    rw [exec_ecdbl_next hp]
    refine ⟨fun hO => ?_, fun hO u h0 hu hinv => ?_, fun hO hmissing => ?_⟩
    · rw [ecDbl_identity _ _ (pt := s.point rs1) hO]
      rfl
    · rw [ecDbl_of_inverse hmod _ (pt := s.point rs1) hO h0 hu hinv, ecChord_tangent]
      rfl
    · rw [ecDbl_of_no_inverse hmod _ (pt := s.point rs1) hO hmissing]
      rfl

/-- Settles O38: the state after `ec_add`, with and without the inverse. -/
theorem ecaddAddsThePoints : Obligations.EcaddAddsThePoints := by
  intro s rd rs1 rs2
  refine ⟨encode_ecadd rd rs1 rs2, fun hparam => ?_, fun hp => ?_⟩
  · obtain ⟨hcheck, -, -⟩ := ecCheckFailureIsParam s rd rs1 rs2 .bin
    exact (hcheck hparam).right
  · have hmod : 2 ≤ s.ecModulus := by rw [State.ecModulus]; omega
    rw [exec_ecadd_next hp]
    refine ⟨fun u h0 hu hinv => ?_, fun hmissing => ?_⟩
    · rw [ecAdd_of_inverse hmod (a := s.point rs1) (b := s.point rs2) h0 hu hinv]
      rfl
    · rw [ecAdd_of_no_inverse hmod (a := s.point rs1) (b := s.point rs2) hmissing]
      rfl

end Sys2Proof.Machine

/-! SUPPORT. The completion interrupt (R320): IRQ after a completion, an acceptance, a write to STATUS or CTRL, and
reset. -/

namespace Sys2Proof.Machine

/-- IRQ rises at the completion of any command, whatever its code, when IE = 1 (R320). -/
theorem exec_next_irq {i : Instr} {s t : State} (h : exec i s = .next t) : t.irq = s.ctrl.ie := by
  obtain ⟨t', hexec, -, hdone, -, -, -, hctrl, -⟩ := everyCommandCompletesWithAListedCode i s
  cases hexec.symm.trans h
  rw [State.irq, hdone, hctrl, Bool.true_and]

theorem irq_of_done_eq_false {s : State} (h : s.status.done = false) : s.irq = false := by
  rw [State.irq, h, Bool.false_and]

@[simp] theorem State.accept_irq (s : State) (v : Word) : (s.accept v).irq = false := irq_of_done_eq_false rfl

@[simp] theorem State.onReset_irq (s : State) : s.onReset.irq = false := irq_of_done_eq_false rfl

/-- A 1 written to DONE clears it, busy or not (R35, R101), and IRQ with it. -/
theorem hostWrite_status_irq (s : State) {v : Word} (h : v.getLsbD 1 = true) :
    (s.hostWrite 0x00C 4 v).irq = false := by
  have hdone : (Status.writeOneToClear s.status v).done = false := by simp [Status.writeOneToClear, h]
  rw [hostWrite_status]
  exact irq_of_done_eq_false hdone

/-- A CTRL write leaves DONE and takes IE from bit 4, whether or not it changes TIER (R33). -/
theorem hostWrite_ctrl_irq {s : State} (hb : s.busy = false) (v : Word) :
    (s.hostWrite 0x008 4 v).irq = (s.status.done && v.getLsbD 4) := by
  rw [hostWrite_control hb (r := .ctrl) rfl rfl, State.writeControl, writeCtrl_eq]
  rfl

/-- Settles O55: the event that raises IRQ, those that make it 0, and the write that sets IE. -/
theorem interruptFollowsDoneAndIe : Obligations.InterruptFollowsDoneAndIe :=
  ⟨fun _ => rfl, fun _ _ _ => exec_next_irq, State.accept_irq, fun s _ => hostWrite_status_irq s,
    fun _ v hb => hostWrite_ctrl_irq hb v, State.onReset_irq⟩

end Sys2Proof.Machine

/-! SUPPORT. Reset (R340, R341, R343): the words of the control block after it, and the step of a reset event. -/

namespace Sys2Proof.Machine

/-- R341's table, one row per register of the control block; a register of two words has one value in both. -/
def resetWord : ControlReg → Word
  | .id => 0x4C534301
  | .caps => 0x0000944A
  | .brtK => 30
  | _ => 0

/-- The stored registers are 0, and the derived ones follow from TIER = 0 and Q = 0 (R43–R46). -/
theorem readControl_reset (r : ControlReg) : State.reset.readControl r = resetWord r := by
  cases r with
  | id | caps | ctrl | status | cmd | nttLogn | brtK | invqFlt | ecKbits | rcCount | rcRemain | rcSym => rfl
  | nttQ h | nttRoot h | nttRootinv h | nttNinv h | brtM h | invqDbl h | mulnX h | mulnY h | mulnR h | nttGen h =>
    cases h <;> rfl

/-- After reset the block is idle, so every word of the control block reads as its register's reset value. -/
theorem hostRead_reset {off : Nat} (r : ControlReg) (ht : targetOf off = .control r) :
    (State.reset.hostRead off 4).rdata = resetWord r := by
  have haligned : ∀ c ∈ controlMap, c.1 % 4 = 0 := by decide
  rw [hostRead_control rfl (haligned _ (mem_controlMap_of_targetOf ht)) ht]
  exact readControl_reset r

/-- Settles O56: register by register, each offset by the map. -/
theorem resetValuesAsRead : Obligations.ResetValuesAsRead :=
  ⟨hostRead_reset .id rfl, hostRead_reset .caps rfl, hostRead_reset .ctrl rfl, hostRead_reset .status rfl,
    hostRead_reset .cmd rfl, hostRead_reset .nttLogn rfl, hostRead_reset .brtK rfl, hostRead_reset (.nttQ .lo) rfl,
    hostRead_reset (.nttRoot .lo) rfl, hostRead_reset (.nttRootinv .lo) rfl, hostRead_reset (.nttNinv .lo) rfl,
    hostRead_reset (.brtM .lo) rfl, hostRead_reset (.invqDbl .lo) rfl, hostRead_reset (.mulnX .lo) rfl,
    hostRead_reset (.mulnY .lo) rfl, hostRead_reset (.mulnR .lo) rfl, hostRead_reset (.nttGen .lo) rfl,
    hostRead_reset .invqFlt rfl, hostRead_reset .ecKbits rfl, hostRead_reset .rcCount rfl,
    hostRead_reset .rcRemain rfl, hostRead_reset .rcSym rfl, rfl, irq_of_done_eq_false rfl, rfl⟩

/-- A reset event is taken whether or not a command is pending (R340). -/
theorem step_reset {s : State} {rest : List Event} (h : s.inputs = .reset :: rest) :
    step s = .next (State.onReset { s with inputs := rest }) := by
  rw [step_cons h, eventStep]

/-- Settles O57: `State.onReset` keeps of the state before it only the events to come among the listed fields. -/
theorem resetEventResetsEveryRegister : Obligations.ResetEventResetsEveryRegister := fun _ _ h =>
  ⟨_, step_reset h, rfl, rfl, rfl, rfl, rfl, rfl, rfl, rfl, rfl, rfl, rfl, rfl, rfl, rfl, rfl, rfl, rfl, rfl, rfl⟩

end Sys2Proof.Machine
